-- ==== Sys2Proof/Word.lean ====
section
/-! DEFINITION. The word types of the Zancet ZS1608. -/

namespace Sys2Proof

/-- One character of the serial link, and one byte of a frame (spec/08 R136). -/
abbrev Byte := BitVec 8

/-- A residue, polynomial, seed or mask as chapter 10 carries it: four bytes (spec/10 R175). -/
abbrev Word32 := BitVec 32

end Sys2Proof
end

