-- ==== Sys2Proof/Syntax.lean ====
section
/-! DEFINITION. The commands of the part, one constructor for each row of spec/opcode_table.json, and the
records that requests carry into its tables (spec/01 1.1, spec/04 4.1 and 4.2). -/

namespace Sys2Proof

/-- The two kinds of probe edge (spec/02 R24). -/
inductive EdgeKind where
  | rising
  | falling
  deriving DecidableEq, Repr

/-- Shift direction of a profile (spec/01 1.1). -/
inductive Direction where
  | left
  | right
  deriving DecidableEq, Repr

/-- Order in which a host-fed byte is broken into bits (spec/01 R9). -/
inductive ByteOrder where
  | msbFirst
  | lsbFirst
  deriving DecidableEq, Repr

/-- A profile record (spec/01 1.1, R2). Its slot number is the place that holds it (R1). -/
structure Profile where
  width : Nat
  poly : Word32
  seed : Word32
  finalMask : Word32
  direction : Direction
  byteOrder : ByteOrder
  deriving DecidableEq, Repr

/-- A probe line with an edge kind: a clock, an EDGE start or an EDGE stop (spec/04 R64, R66). -/
structure LineEdge where
  line : Fin 16
  edge : EdgeKind
  deriving DecidableEq, Repr

/-- A probe line with a required level, HIGH when `high`: a qualifier (spec/04 R64). -/
structure LineLevel where
  line : Fin 16
  high : Bool
  deriving DecidableEq, Repr

/-- What a lane of mode SERIAL or PARALLEL samples, and when (spec/04 R64). Bit n of `data` names PLn. -/
structure ProbeInput where
  data : BitVec 16
  clock : LineEdge
  qualifier : Option LineLevel
  deriving DecidableEq, Repr

/-- The mode of a lane with what each mode holds (spec/04 R64, R65). -/
inductive LaneMode where
  | serial (p : ProbeInput)
  | parallel (p : ProbeInput)
  | host
  deriving DecidableEq, Repr

/-- What opens the window (spec/04 R66). -/
inductive StartKind where
  | immediate
  | edge (e : LineEdge)
  | host
  deriving DecidableEq, Repr

/-- What closes the window with reason STOP (spec/04 R66). -/
inductive StopKind where
  | edge (e : LineEdge)
  | count (n : Nat)
  | host
  deriving DecidableEq, Repr

/-- An expected count range, both ends included (spec/04 R67). -/
structure CountRange where
  min : Nat
  max : Nat
  deriving DecidableEq, Repr

/-- A lane record (spec/04 R63 to R67). -/
structure Lane where
  unit : Fin 8
  profile : Fin 16
  mode : LaneMode
  start : StartKind
  stop : StopKind
  sampleLimit : Option Nat
  expectedResidue : Option Word32
  expectedCount : Option CountRange
  deriving DecidableEq, Repr

/-- The value a flag pattern gives one flag line (spec/04 R61). -/
inductive PatternValue where
  | keep
  | low
  | high
  deriving DecidableEq, Repr

/-- The action of a step whose attempt at the retry limit failed (spec/04 R62). -/
inductive ExhaustAction where
  | cont
  | halt
  deriving DecidableEq, Repr

/-- The on-fail field; a retry limit and an exhaust action are held with RETRY alone (spec/04 R62). -/
inductive OnFail where
  | cont
  | halt
  | retry (limit : Nat) (exhaust : ExhaustAction)
  deriving DecidableEq, Repr

/-- A step record (spec/04 R60, R61). -/
structure StepRecord where
  number : Fin 96
  label : BitVec 16
  timeLimit : Nat
  settle : Option Nat
  pattern : Option (Vector PatternValue 4)
  onFail : OnFail
  lanes : List Lane
  deriving DecidableEq, Repr

/-- The commands: one constructor for each row of spec/opcode_table.json. `t` is the instant, in ticks, at
which the command is sent (notes/assumptions/1). The parameters of a request are in the oldest frame of the
request queue (spec/09 R158, notes/assumptions/8). -/
inductive Instr where
  /-- POWER_ON: the supply reaches its operating range; `pins` are the levels of PL0-PL15, `rxdLow` a low RXD. -/
  | powerOn (t : Nat) (pins : BitVec 16) (rxdLow : Bool)
  /-- RESET_LINE_ASSERT: nRESET is driven low. -/
  | resetLineAssert (t : Nat)
  /-- RESET_LINE: nRESET returns high; `rxdLow` says whether RXD is low then. -/
  | resetLine (t : Nat) (rxdLow : Bool)
  /-- PIN_CHANGE: the pin of a probe line takes a level. -/
  | pinChange (t : Nat) (line : Fin 16) (level : Bool)
  /-- FILTER_EXPIRY: the pending level of a probe line has held for its filter time. -/
  | filterExpiry (t : Nat) (line : Fin 16)
  /-- EDGE_RECEIPT: a unit receives a probe edge that was delivered to it. -/
  | edgeReceipt (t : Nat) (unit : Fin 8) (line : Fin 16) (kind : EdgeKind)
  /-- SETTLE_END: the settle timer runs out. -/
  | settleEnd (t : Nat)
  /-- STEP_TIMER_EXPIRY: the step timer reaches the step's time limit. -/
  | stepTimerExpiry (t : Nat)
  /-- TARGET_CHANGE: a flag line handles a change of its target. -/
  | targetChange (t : Nat) (flag : Fin 4)
  /-- HOLD_END: the hold end of a flag line is reached. -/
  | holdEnd (t : Nat) (flag : Fin 4)
  /-- PULSE_END: the pulse end of a flag line is reached. -/
  | pulseEnd (t : Nat) (flag : Fin 4)
  /-- CHARACTER: the character in reception completes with a high stop bit. -/
  | character (t : Nat) (byte : Byte)
  /-- LOW_STOP_BIT: the stop bit of the character in reception is sampled low; the low began at `since`. -/
  | lowStopBit (t : Nat) (since : Nat)
  /-- FRAMING: RXD returns high before a watched low has lasted 10 ms. -/
  | framing (t : Nat)
  /-- GAP: the gap timer reaches the gap limit. -/
  | gap (t : Nat)
  /-- BREAK: RXD has been low for 10 ms. -/
  | brk (t : Nat)
  /-- FRAME_SENT: the last byte of the frame in flight leaves TXD. -/
  | frameSent (t : Nat)
  /-- UNKNOWN_KIND: a request whose KIND names no request is taken. -/
  | unknownKind (t : Nat)
  | hello (t : Nat)
  | status (t : Nat)
  | setNotices (t : Nat)
  | resetPlan (t : Nat)
  | resetFull (t : Nat)
  | setLink (t : Nat)
  | defineStep (t : Nat)
  | readStep (t : Nat)
  | eraseSteps (t : Nat)
  | readResults (t : Nat)
  | ackResults (t : Nat)
  | defineProfile (t : Nat)
  | readProfile (t : Nat)
  | eraseProfile (t : Nat)
  | compute (t : Nat)
  | setProbe (t : Nat)
  | readProbes (t : Nat)
  | run (t : Nat)
  | pause (t : Nat)
  | resume (t : Nat)
  | abort (t : Nat)
  | markStart (t : Nat)
  | markStop (t : Nat)
  | feed (t : Nat)
  | setFlag (t : Nat)
  | driveFlags (t : Nat)
  /-- START_BIT: a falling edge of RXD begins a start bit; `glitch` says that RXD is high again at its middle. -/
  | startBit (t : Nat) (glitch : Bool)
  /-- RXD_RETURN_HIGH: RXD returns high after a break, or after a low timed from the end of a reset. -/
  | rxdReturnHigh (t : Nat)
  deriving DecidableEq, Repr

end Sys2Proof
end

