-- ==== Sys2Proof/Decode.lean ====
section
/-! DEFINITION. The command that a word spells. -/

namespace Sys2Proof

/-- spec/opcode_table.json gives no row any bits (spec/98_reader.md: n_rows_with_fixed 0), so no word spells a
command. notes/assumptions/20. -/
def decodeTableWord (_nbits _w : Nat) : Option Instr := none

end Sys2Proof
end

