-- ==== Sys2Proof/Config.lean ====
section
/-! DEFINITION. What is fixed for the part: capacities, units of time, and the one free value. -/

namespace Sys2Proof

/-- Ticks in a microsecond. 576 makes a microsecond and the bit time of each of the seven link rates
(spec/08 8.1) whole numbers of ticks. DESIGN CHOICE, notes/assumptions/1. -/
def Config.ticksPerMicro : Nat := 576

/-- Ticks in a millisecond. -/
def Config.ticksPerMilli : Nat := 1000 * Config.ticksPerMicro

/-- Ticks in a second. -/
def Config.ticksPerSecond : Nat := 1000 * Config.ticksPerMilli

/-- Records the Result Queue holds at most (spec/06 R108). -/
def Config.queueCapacity : Nat := 64

/-- Frames the request queue holds at most (spec/08 R147). -/
def Config.requestCapacity : Nat := 4

/-- Entries the reply cache holds at most (spec/09 R159). -/
def Config.cacheCapacity : Nat := 8

/-- Places of the reply queue for replies of interpreted requests (spec/09 R157). -/
def Config.replyPlaces : Nat := 2

/-- OVERRUN refusals that wait in the reply queue at most (spec/08 R148). -/
def Config.refusalPlaces : Nat := 2

/-- Largest payload of a frame (spec/08 R140). -/
def Config.payloadLimit : Nat := 248

/-- The largest value of a four-byte number, 2^32 - 1. -/
def Config.max32 : Nat := 2 ^ 32 - 1

/-- A FREE VALUE: which of several happenings due at one instant the block takes first, for the n-th such
choice. The spec calls every order legal (R26, R33, R50, R86, R101, R128, R131, R173) and gives none;
nothing constrains this function. notes/assumptions/3. -/
opaque Config.tieBreak : Nat → Nat

end Sys2Proof
end

