-- ==== Sys2Proof/Machine/Bytes.lean ====
section
/-! DEFINITION. Bits and bytes of the frame fields (spec/10 R175, R176). -/

namespace Sys2Proof.Machine

/-- Bit `i` of a byte. -/
def bitOf (b : Byte) (i : Nat) : Bool := b.getLsbD i

/-- The number in the `len` bits of a byte from bit `lo` up. -/
def fieldOf (b : Byte) (lo len : Nat) : Nat := b.toNat / 2 ^ lo % 2 ^ len

/-- A number as one byte. -/
def byteOf (n : Nat) : Byte := BitVec.ofNat 8 n

/-- A number as `k` bytes, lowest-order byte first (R175). -/
def leBytes : Nat → Nat → List Byte
  | 0, _ => []
  | k + 1, n => byteOf n :: leBytes k (n / 256)

/-- The number that bytes carry, lowest-order byte first (R175). -/
def ofLeBytes : List Byte → Nat
  | [] => 0
  | b :: bs => b.toNat + 256 * ofLeBytes bs

/-- A truth value as a number. -/
def ofBit (b : Bool) : Nat := if b then 1 else 0

/-- Truth values as a number, the first in bit 0: a line mask, a unit mask or a group of presence bits. -/
def ofBits : List Bool → Nat
  | [] => 0
  | b :: bs => ofBit b + 2 * ofBits bs

/-- The bits of a byte in the order a list of positions gives. -/
def bitsAt (b : Byte) (order : List Nat) : List Bool := order.map (bitOf b)

/-- How many lines a line mask names. -/
def lineCount (mask : BitVec 16) : Nat := ((List.range 16).filter fun i => mask.getLsbD i).length

end Sys2Proof.Machine
end

