-- ==== Sys2Proof/Machine/Fold.lean ====
section
/-! DEFINITION. Signature arithmetic (spec/01): serial, parallel and host folds, the reported residue, the fixed
profiles and the frame check. -/

namespace Sys2Proof.Machine

/-- The reflected polynomial of a `w`-bit profile: bit w - 1 - j is bit j of the polynomial (R6). -/
def reflected (w : Nat) (poly : Word32) : Word32 := poly.reverse >>> (32 - w)

/-- The w-bit value with every bit set, which keeps a shifted residue below 2^w (R2, R5). -/
def widthMask (w : Nat) : Word32 := BitVec.ofNat 32 (2 ^ w - 1)

/-- A serial fold in direction LEFT (R5). -/
def foldLeft (p : Profile) (r : Word32) (d : Bool) : Word32 :=
  let shifted := (r <<< 1) &&& widthMask p.width
  if r.getLsbD (p.width - 1) ^^ d then shifted ^^^ p.poly else shifted

/-- A serial fold in direction RIGHT (R6). -/
def foldRight (p : Profile) (r : Word32) (d : Bool) : Word32 :=
  let shifted := r >>> 1
  if r.getLsbD 0 ^^ d then shifted ^^^ reflected p.width p.poly else shifted

/-- A serial fold in the profile's direction (R5, R6). -/
def serialFold (p : Profile) (r : Word32) (d : Bool) : Word32 :=
  match p.direction with
  | .left => foldLeft p r d
  | .right => foldRight p r d

/-- The stage that input `j` of a parallel fold enters (R7). -/
def inputStage (p : Profile) (j : Nat) : Nat :=
  match p.direction with
  | .left => j
  | .right => p.width - 1 - j

/-- The inputs of a parallel fold combined into their stages, from input `j` on (R7). -/
def combineInputs (p : Profile) : Nat → List Bool → Word32 → Word32
  | _, [], r => r
  | j, b :: bs, r => combineInputs p (j + 1) bs (if b then r ^^^ BitVec.twoPow 32 (inputStage p j) else r)

/-- A parallel fold: one serial fold with input 0, then the inputs (R7). -/
def parallelFold (p : Profile) (r : Word32) (inputs : List Bool) : Word32 :=
  combineInputs p 0 inputs (serialFold p r false)

/-- The bits of a host-fed byte in the order they fold (R9). -/
def byteBits (o : ByteOrder) (b : Byte) : List Bool :=
  match o with
  | .msbFirst => bitsAt b [7, 6, 5, 4, 3, 2, 1, 0]
  | .lsbFirst => bitsAt b [0, 1, 2, 3, 4, 5, 6, 7]

/-- Eight serial folds over one byte (R9). -/
def foldByte (p : Profile) (r : Word32) (b : Byte) : Word32 := (byteBits p.byteOrder b).foldl (serialFold p) r

/-- Bytes folded in the order in which they stand (R9). -/
def foldBytes (p : Profile) (r : Word32) (bs : List Byte) : Word32 := bs.foldl (foldByte p) r

/-- The reported residue (R10). -/
def reportedResidue (p : Profile) (r : Word32) : Word32 := r ^^^ p.finalMask

/-- The profile of fixed slot 14 (R3). -/
def fixed14 : Profile :=
  { width := 16, poly := 0x1021, seed := 0xFFFF, finalMask := 0, direction := .left, byteOrder := .msbFirst }

/-- The profile of fixed slot 15 (R3). -/
def fixed15 : Profile :=
  { width := 32, poly := 0x04C11DB7, seed := 0xFFFFFFFF, finalMask := 0xFFFFFFFF, direction := .right,
    byteOrder := .lsbFirst }

/-- The signature of bytes from a profile's seed, as COMPUTE reports it (R17). -/
def signatureOf (p : Profile) (bs : List Byte) : Word32 := reportedResidue p (foldBytes p p.seed bs)

/-- The value of the running check that a frame's check carries (spec/08 R138, R142). -/
def checkOf (crc : Word32) : BitVec 16 := (reportedResidue fixed14 crc).setWidth 16

/-- The check of a frame over its header and payload (spec/08 R138). -/
def frameCheck (tag kind ctrl : Byte) (payload : List Byte) : BitVec 16 :=
  checkOf (foldBytes fixed14 fixed14.seed ([byteOf payload.length, tag, kind, ctrl] ++ payload))

end Sys2Proof.Machine
end

