-- ==== Sys2Proof/Machine/State.lean ====
section
/-! DEFINITION. The state of the part, block by block, as plain data; its reasons to stop; and the state right
after power-on. INVENTORY.md names the rule of each field. -/

namespace Sys2Proof.Machine

/-! ### Probe Inputs (spec/02 R20) -/

/-- The filter of a line. An instant is a number of ticks (notes/assumptions/1). -/
inductive FilterState where
  | steady
  | pending (start : Nat)
  deriving DecidableEq, Repr

/-- One probe line. `filter` is F in microseconds. -/
structure ProbeLine where
  pin : Bool
  invert : Bool
  filter : Nat
  level : Bool
  state : FilterState
  mark : Bool
  deriving DecidableEq, Repr

/-! ### Compactor Units (spec/03 R34, R35) -/

/-- A probe edge on its way to a unit (spec/02 R25). -/
structure ProbeEdge where
  line : Fin 16
  kind : EdgeKind
  deriving DecidableEq, Repr

/-- The states of a unit other than IDLE (spec/03 R34). -/
inductive Phase where
  | armed
  | opened
  | closed
  deriving DecidableEq, Repr

/-- Why a window ended (spec/03 R48). -/
inductive CloseReason where
  | stop
  | limit
  | noStart
  | timeLimit
  deriving DecidableEq, Repr

/-- The bound copy of a unit that is not IDLE (spec/03 R35), with the unit's state and the probe edges that
were delivered to it and that it has yet to receive, oldest first (R25, notes/assumptions/14). -/
structure Bound where
  phase : Phase
  lane : Lane
  profile : Profile
  residue : Word32
  samples : Nat
  transitions : Nat
  previous : Option (List Bool)
  openedAt : Option Nat
  reason : Option CloseReason
  duration : Nat
  inbox : List ProbeEdge
  deriving DecidableEq, Repr

/-- What a unit hands the sequencer at its close (spec/03 R47). -/
structure CloseReport where
  unit : Fin 8
  reason : CloseReason
  residue : Word32
  samples : Nat
  transitions : Nat
  duration : Nat
  deriving DecidableEq, Repr

/-! ### Plan Sequencer (spec/05 R80, R81) -/

/-- The plan states (R80). -/
inductive PlanState where
  | idle
  | settling
  | capturing
  | held
  | paused
  deriving DecidableEq, Repr

/-- The plan conditions that the PLAN notice reports (R80, R104). -/
inductive PlanCondition where
  | idle
  | running
  | held
  | paused
  deriving DecidableEq, Repr

/-- The judgement of a lane or a step (R88, R89). -/
inductive Verdict where
  | pass
  | fail
  | unchecked
  | fault
  deriving DecidableEq, Repr

/-- How a criterion stands in a record (R88). -/
inductive CheckResult where
  | notApplied
  | met
  | failed
  deriving DecidableEq, Repr

/-- How a run ended (R103). -/
inductive OutcomeKind where
  | done
  | halted
  | aborted
  | cleared
  deriving DecidableEq, Repr

/-- The last outcome (R103). -/
structure LastOutcome where
  kind : OutcomeKind
  step : Fin 96
  iteration : Nat
  deriving DecidableEq, Repr

/-- The items of R81. The run clock is held as the instant it started at 0, the settle timer and the step timer
as the instants at which they run out (notes/assumptions/18). Place p - 1 of `reports` is lane position p. -/
structure Sequencer where
  plan : PlanState
  runFirst : Fin 96
  runLast : Fin 96
  loopCount : Nat
  iteration : Nat
  step : Fin 96
  attempt : Nat
  pausePending : Bool
  stepCopy : Option StepRecord
  stepStart : Nat
  runClockFrom : Option Nat
  settleEndAt : Option Nat
  stepTimerAt : Option Nat
  reports : Vector (Option CloseReport) 8
  heldVerdict : Option Verdict
  lastOutcome : Option LastOutcome
  deriving DecidableEq, Repr

/-! ### Result Queue (spec/06 R108, 6.2) -/

/-- One result record (6.2). -/
structure ResultRecord where
  sequence : BitVec 16
  step : Fin 96
  label : BitVec 16
  attempt : Nat
  iteration : Nat
  lanePosition : Nat
  unit : Fin 8
  profile : Fin 16
  reason : CloseReason
  laneVerdict : Verdict
  stepVerdict : Verdict
  residueCheck : CheckResult
  countCheck : CheckResult
  residue : Word32
  samples : Nat
  transitions : Nat
  stepStart : Nat
  duration : Nat
  deriving DecidableEq, Repr

/-- The records held, oldest first, and the next sequence N (R108, R109). -/
structure ResultQueue where
  records : List ResultRecord
  next : BitVec 16
  deriving DecidableEq, Repr

/-! ### Flag Outputs (spec/07 R125) -/

/-- The eight sources (R126, R128). -/
inductive FlagSource where
  | host
  | pattern
  | active
  | window
  | stepEnd
  | fail
  | pending
  | held
  deriving DecidableEq, Repr

/-- One flag line. `width` is W in microseconds. `target` is the target as the stretcher last took it and
`changes` the later targets that wait for their TARGET_CHANGE, oldest first (R126, notes/assumptions/13). -/
structure FlagLine where
  source : FlagSource
  invert : Bool
  width : Nat
  hostLevel : Bool
  restLevel : Bool
  patternLevel : Bool
  pulseEnd : Option Nat
  output : Bool
  holdEnd : Option Nat
  target : Bool
  changes : List Bool
  deriving DecidableEq, Repr

/-! ### Link Receiver (spec/08 8.1 to 8.5) -/

/-- The seven link rates (R136). -/
inductive LinkRate where
  | b9600
  | b19200
  | b57600
  | b115200
  | b230400
  | b460800
  | b921600
  deriving DecidableEq, Repr

/-- The header bytes after LEN, with LEN itself the number of payload bytes (8.2). -/
structure Header where
  len : Nat
  tag : Byte
  kind : Byte
  ctrl : Byte
  deriving DecidableEq, Repr

/-- The receiver state with its partial frame and running check (8.3). -/
inductive RxState where
  | hunt
  | header (got : List Byte) (crc : Word32)
  | body (h : Header) (payload : List Byte) (crc : Word32)
  | check (h : Header) (payload : List Byte) (crc : Word32) (first : Option Byte)
  deriving DecidableEq, Repr

/-- A low level of RXD: watched after a low stop bit (R144), timed from a reset (R155), waited out after a break
(R150), or the one that a character had begun which a rate switch dropped (R154, notes/assumptions/28); `since` is
the instant from which it is timed. `untimed` when no low level is followed. -/
inductive LowLevel where
  | untimed
  | watched (since : Nat)
  | timed (since : Nat)
  | dropped (since : Nat)
  | afterBreak
  deriving DecidableEq, Repr

/-- A character in reception: the rate at which it began, and the instant of the falling edge that began it (R137). -/
structure Reception where
  rate : LinkRate
  since : Nat
  deriving DecidableEq, Repr

/-- The Link Receiver, with the link rate that the transmitter shares (R136). `gapFrom` is the instant of the
last character while the gap timer runs (R143); `gapLimit` is in milliseconds. -/
structure Receiver where
  state : RxState
  rate : LinkRate
  gapLimit : Nat
  gapFrom : Option Nat
  character : Option Reception
  low : LowLevel
  deriving DecidableEq, Repr

/-! ### Request Interpreter (spec/09 9.1) -/

/-- A checked request frame (spec/08 R147). -/
structure Frame where
  tag : Byte
  kind : Byte
  ctrl : Byte
  payload : List Byte
  deriving DecidableEq, Repr

/-- A frame of the part, complete with its check (spec/08 R149). -/
structure OutFrame where
  tag : Byte
  kind : Byte
  ctrl : Byte
  payload : List Byte
  check : BitVec 16
  deriving DecidableEq, Repr

/-- One entry of the reply cache (R159). -/
structure CacheEntry where
  tag : Byte
  frame : OutFrame
  deriving DecidableEq, Repr

/-- The notice mask, true for enabled (R164). -/
structure NoticeMask where
  link : Bool
  plan : Bool
  results : Bool
  deriving DecidableEq, Repr

/-- The Request Interpreter. The cache stands oldest entry first, which is its entries' age (R159). -/
structure Interpreter where
  requests : List Frame
  resetPending : Bool
  cache : List CacheEntry
  mask : NoticeMask
  deriving DecidableEq, Repr

/-! ### Link Transmitter (spec/09 9.1, spec/08 8.6) -/

/-- What a frame is (R172). -/
inductive Role where
  | reply
  | refusal
  | notice
  deriving DecidableEq, Repr

/-- What comes about when the last byte of a frame leaves: nothing more, a rate switch (spec/08 R154), or a
FULL reset (spec/09 R166). -/
inductive Attached where
  | nothing
  | rateSwitch (r : LinkRate)
  | fullReset
  deriving DecidableEq, Repr

/-- A reply or refusal that waits in the reply queue (R157). -/
structure QueuedReply where
  frame : OutFrame
  role : Role
  attached : Attached
  deriving DecidableEq, Repr

/-- The frame in flight, with the instant of its first start bit and the rate it is sent at (spec/08 R149). -/
structure InFlight where
  frame : OutFrame
  role : Role
  attached : Attached
  beganAt : Nat
  rate : LinkRate
  deriving DecidableEq, Repr

/-- The reasons of a START notice (R170). -/
inductive StartReason where
  | powerUp
  | resetLine
  | fullReset
  deriving DecidableEq, Repr

/-- The reasons of a LINK notice (spec/08 R145, R146). -/
inductive LinkReason where
  | gap
  | length
  | check
  | framing
  | unexpected
  | recovery
  deriving DecidableEq, Repr

/-- A pending START notice (R168, R170). -/
structure StartNotice where
  reason : StartReason
  count : Nat
  deriving DecidableEq, Repr

/-- A pending LINK notice; bit n of `reasons` stands for the reason of code n (spec/08 R146, spec/10 10.8). -/
structure LinkNotice where
  latest : LinkReason
  reasons : Byte
  count : Nat
  deriving DecidableEq, Repr

/-- A pending PLAN notice (spec/05 R104). -/
structure PlanNotice where
  condition : PlanCondition
  step : Fin 96
  attempt : Nat
  iteration : Nat
  outcome : Option LastOutcome
  count : Nat
  deriving DecidableEq, Repr

/-- A pending RESULTS notice (spec/06 R117). -/
structure ResultsNotice where
  held : Nat
  oldest : BitVec 16
  newest : BitVec 16
  count : Nat
  deriving DecidableEq, Repr

/-- The Link Transmitter. TXD is free for a new frame from `freeAt` on (spec/08 R151 step 5,
notes/assumptions/15). -/
structure Transmitter where
  queue : List QueuedReply
  inFlight : Option InFlight
  start : Option StartNotice
  link : Option LinkNotice
  plan : Option PlanNotice
  results : Option ResultsNotice
  freeAt : Nat
  deriving DecidableEq, Repr

/-! ### The part -/

/-- The state of the part. `now` is the present instant; `nResetLow` says that nRESET is held low; place n of
`profiles` is host slot n; a unit that is `none` is IDLE. `choices` counts the free choices made
(notes/assumptions/3) and `pending` is the queue of commands that wait: both are the model's own. -/
structure State where
  now : Nat
  nResetLow : Bool
  probes : Vector ProbeLine 16
  profiles : Vector (Option Profile) 14
  steps : Vector (Option StepRecord) 96
  units : Vector (Option Bound) 8
  seq : Sequencer
  queue : ResultQueue
  flags : Vector FlagLine 4
  rx : Receiver
  interp : Interpreter
  tx : Transmitter
  choices : Nat
  pending : List Instr
  deriving DecidableEq, Repr

/-- The reasons the machine stops with a fault. The spec gives none: every refusal is a reply, every link fault
a notice (spec/09 R162, spec/08 R145). No meaning raises one. notes/assumptions/21. -/
inductive Fault where
  deriving DecidableEq, Repr

/-- The reasons a command has no meaning. -/
inductive Refusal where
  /-- Raised by an arm of exec for a command the model gives no meaning yet. Safe: nothing is claimed of it. No
  arm raises it now. -/
  | notModelled (mnemonic : String)
  deriving DecidableEq, Repr

/-- What a command answers. -/
abbrev Result := Host.Outcome State Fault Refusal

/-! ### The state after power-on -/

/-- A probe line after power-on with its pin at level `b` (spec/02 R31). -/
def ProbeLine.afterReset (b : Bool) : ProbeLine :=
  { pin := b, invert := false, filter := 0, level := b, state := .steady, mark := false }

/-- The sequencer after power-on, the reset line and a FULL reset (spec/05 R107). -/
def Sequencer.afterReset : Sequencer :=
  { plan := .idle, runFirst := 0, runLast := 0, loopCount := 0, iteration := 0, step := 0, attempt := 0,
    pausePending := false, stepCopy := none, stepStart := 0, runClockFrom := none, settleEndAt := none,
    stepTimerAt := none, reports := Vector.replicate 8 none, heldVerdict := none, lastOutcome := none }

/-- The Result Queue after power-on, the reset line and a FULL reset (spec/06 R123). -/
def ResultQueue.afterReset : ResultQueue := { records := [], next := 0 }

/-- A flag line after power-on, the reset line and a FULL reset (spec/07 R134). -/
def FlagLine.afterReset : FlagLine :=
  { source := .host, invert := false, width := 0, hostLevel := false, restLevel := false, patternLevel := false,
    pulseEnd := none, output := false, holdEnd := none, target := false, changes := [] }

/-- The Link Receiver after power-on and the reset line, with RXD high (spec/08 R155). -/
def Receiver.afterReset : Receiver :=
  { state := .hunt, rate := .b115200, gapLimit := 25, gapFrom := none, character := none, low := .untimed }

/-- The Request Interpreter after every reset that empties it (spec/09 R174). -/
def Interpreter.afterReset : Interpreter :=
  { requests := [], resetPending := false, cache := [], mask := { link := true, plan := true, results := true } }

/-- The Link Transmitter with nothing in flight and nothing waiting. -/
def Transmitter.afterReset : Transmitter :=
  { queue := [], inFlight := none, start := none, link := none, plan := none, results := none, freeAt := 0 }

/-- The START notice with reason POWER_UP as it begins to leave at instant 0 (spec/09 R170, R172). -/
def State.startInFlight : InFlight :=
  { frame := { tag := 0, kind := 0x40, ctrl := 0, payload := [0, 1], check := 0xFBED }, role := .notice,
    attached := .nothing, beganAt := 0, rate := .b115200 }

/-- The part right after power-on at instant 0, with every pin of PL0-PL15 low and RXD high
(notes/assumptions/6): what POWER_ON leaves, its arbiter's choice made (spec/09 R170, R172, R174). -/
def State.reset : State :=
  { now := 0, nResetLow := false, probes := Vector.replicate 16 (ProbeLine.afterReset false),
    profiles := Vector.replicate 14 none, steps := Vector.replicate 96 none, units := Vector.replicate 8 none,
    seq := Sequencer.afterReset, queue := ResultQueue.afterReset, flags := Vector.replicate 4 FlagLine.afterReset,
    rx := Receiver.afterReset, interp := Interpreter.afterReset,
    tx := { Transmitter.afterReset with inFlight := some State.startInFlight }, choices := 0, pending := [] }

end Sys2Proof.Machine
end

