-- ==== Sys2Proof/Machine/Ops.lean ====
section
/-! DEFINITION. The operations that commands of every family share: time, the tables' reads, frames, notices, the
arbiter of TXD and the delivery of probe edges. -/

namespace Sys2Proof.Machine

/-! ### Time -/

/-- The present instant becomes `t`, or stays where a later one has been reached (notes/assumptions/1). -/
def State.advance (t : Nat) (s : State) : State := { s with now := max s.now t }

/-- A span of whole microseconds in ticks. -/
def micros (n : Nat) : Nat := n * Config.ticksPerMicro

/-- A span of whole milliseconds in ticks. -/
def millis (n : Nat) : Nat := n * Config.ticksPerMilli

/-- The numbers of the eight units. -/
def allUnits : List (Fin 8) := [0, 1, 2, 3, 4, 5, 6, 7]

/-- The numbers of the sixteen probe lines, rising. -/
def allLines : List (Fin 16) := [0, 1, 2, 3, 4, 5, 6, 7, 8, 9, 10, 11, 12, 13, 14, 15]

/-- The numbers of the four flag lines. -/
def allFlags : List (Fin 4) := [0, 1, 2, 3]

/-! ### Tables -/

/-- The profile a slot holds, none for an empty slot (spec/01 R1, R3). -/
def State.profileAt (s : State) (slot : Fin 16) : Option Profile :=
  if h : slot.val < 14 then s.profiles[slot.val] else if slot.val = 14 then some fixed14 else some fixed15

/-- The width of the profile a slot holds. -/
def State.widthAt (s : State) (slot : Fin 16) : Option Nat := (s.profileAt slot).map (·.width)

/-- A slot is in use: a defined step has a lane that names it (spec/01 R13). -/
def State.inUse (s : State) (slot : Fin 16) : Bool :=
  (List.finRange 96).any fun n => s.steps[n].any fun r => r.lanes.any fun l => decide (l.profile = slot)

/-- The lowest defined step number from `first` to `last`, or none (spec/04 R68). -/
def State.firstDefined (s : State) (first last : Nat) : Option (Fin 96) :=
  (List.finRange 96).find? fun n => decide (first ≤ n.val) && decide (n.val ≤ last) && s.steps[n].isSome

/-- The lowest defined step number above `n` and not above `last`, or none (spec/04 R68). -/
def State.nextDefined (s : State) (n last : Nat) : Option (Fin 96) := s.firstDefined (n + 1) last

/-! ### Units as seen by other blocks -/

/-- Unit `u` is OPEN. -/
def State.isOpen (s : State) (u : Fin 8) : Bool := s.units[u].any fun b => decide (b.phase = .opened)

/-- The WINDOW signal: at least one unit is OPEN (spec/03 R34). -/
def State.windowSignal (s : State) : Bool := allUnits.any s.isOpen

/-- The code of a unit's state (spec/10 10.3 note 4). -/
def unitCode : Option Bound → Nat
  | none => 0
  | some b =>
    match b.phase with
    | .armed => 1
    | .opened => 2
    | .closed => 3

/-- The plan condition of a plan state (spec/05 R80). -/
def PlanState.condition : PlanState → PlanCondition
  | .idle => .idle
  | .settling => .running
  | .capturing => .running
  | .held => .held
  | .paused => .paused

/-- The run clock in whole milliseconds (spec/05 R83). -/
def State.runClock (s : State) : Nat :=
  match s.seq.runClockFrom with
  | none => 0
  | some t => (s.now - t) / Config.ticksPerMilli % 2 ^ 32

/-! ### Frames -/

/-- A frame of the part with its check (spec/08 R149); CTRL is 0 (R161). -/
def mkFrame (tag kind : Byte) (payload : List Byte) : OutFrame :=
  { tag := tag, kind := kind, ctrl := 0, payload := payload, check := frameCheck tag kind 0 payload }

/-- The bytes of a frame as they stand on TXD (spec/10 10.2). -/
def OutFrame.bytes (f : OutFrame) : List Byte :=
  [0xC5, byteOf f.payload.length, f.tag, f.kind, f.ctrl] ++ f.payload ++ leBytes 2 f.check.toNat

/-- The rate in baud (spec/08 R136). -/
def LinkRate.baud : LinkRate → Nat
  | .b9600 => 9600
  | .b19200 => 19200
  | .b57600 => 57600
  | .b115200 => 115200
  | .b230400 => 230400
  | .b460800 => 460800
  | .b921600 => 921600

/-- The rate of a baud value, if it is one of the seven (spec/08 R153). -/
def LinkRate.ofBaud (n : Nat) : Option LinkRate :=
  [LinkRate.b9600, .b19200, .b57600, .b115200, .b230400, .b460800, .b921600].find? fun r => decide (r.baud = n)

/-- The time of one character, ten bit times (spec/08 8.1). -/
def LinkRate.characterTime (r : LinkRate) : Nat := 10 * (Config.ticksPerSecond / r.baud)

/-- The instant at which the last byte of a frame in flight leaves (spec/08 R149). -/
def InFlight.endAt (f : InFlight) : Nat := f.beganAt + (f.frame.payload.length + 7) * f.rate.characterTime

/-- The instant at which the character in progress of a frame in flight ends (spec/08 R151 step 5). -/
def InFlight.characterEnd (now : Nat) (f : InFlight) : Nat :=
  f.beganAt + ((now - f.beganAt) + f.rate.characterTime - 1) / f.rate.characterTime * f.rate.characterTime

/-! ### Notices (spec/09 9.7) -/

/-- A repeat count one higher, held at 255 (R168). -/
def bumpCount (n : Nat) : Nat := min 255 (n + 1)

/-- The code of a START reason (spec/10 10.8). -/
def StartReason.code : StartReason → Nat
  | .powerUp => 0
  | .resetLine => 1
  | .fullReset => 2

/-- The code of a LINK reason (spec/10 10.8). -/
def LinkReason.code : LinkReason → Nat
  | .gap => 0
  | .length => 1
  | .check => 2
  | .framing => 3
  | .unexpected => 4
  | .recovery => 5

/-- A START notice is raised; nothing masks it (R168, R169, R170). -/
def State.raiseStart (reason : StartReason) (s : State) : State :=
  { s with tx := { s.tx with start := some { reason := reason, count := bumpCount ((s.tx.start.map (·.count)).getD 0) } } }

/-- The LINK notice after one more raise (R168, spec/08 R146). -/
def LinkNotice.raised (reason : LinkReason) (old : Option LinkNotice) : LinkNotice :=
  { latest := reason
    reasons := (old.map (·.reasons)).getD 0 ||| BitVec.twoPow 8 reason.code
    count := bumpCount ((old.map (·.count)).getD 0) }

/-- A LINK notice is raised, unless LINK is masked (R169, spec/08 R146). -/
def State.raiseLink (reason : LinkReason) (s : State) : State :=
  if s.interp.mask.link then { s with tx := { s.tx with link := some (LinkNotice.raised reason s.tx.link) } } else s

/-- A PLAN notice is raised with the sequencer's present values, unless PLAN is masked (spec/05 R104, R169). -/
def State.raisePlan (s : State) : State :=
  if s.interp.mask.plan then
    let n : PlanNotice :=
      { condition := s.seq.plan.condition, step := s.seq.step, attempt := s.seq.attempt,
        iteration := s.seq.iteration, outcome := s.seq.lastOutcome,
        count := bumpCount ((s.tx.plan.map (·.count)).getD 0) }
    { s with tx := { s.tx with plan := some n } }
  else s

/-- A RESULTS notice is raised with the queue's present values, unless RESULTS is masked (spec/06 R116, R117,
R169). -/
def State.raiseResults (s : State) : State :=
  if s.interp.mask.results then
    let n : ResultsNotice :=
      { held := s.queue.records.length,
        oldest := s.queue.next - BitVec.ofNat 16 s.queue.records.length,
        newest := s.queue.next - 1,
        count := bumpCount ((s.tx.results.map (·.count)).getD 0) }
    { s with tx := { s.tx with results := some n } }
  else s

/-- A PLAN notice at the end of a happening that began in `before`, if the plan condition differs (spec/05
R104). -/
def State.noticePlan (s before : State) : State :=
  if before.seq.plan.condition = s.seq.plan.condition then s else s.raisePlan

/-- The code of an outcome (spec/10 10.7). -/
def OutcomeKind.code : OutcomeKind → Nat
  | .done => 0
  | .halted => 1
  | .aborted => 2
  | .cleared => 3

/-- The code of a plan condition (spec/10 10.8). -/
def PlanCondition.code : PlanCondition → Nat
  | .idle => 0
  | .running => 1
  | .held => 2
  | .paused => 3

/-- The four bytes of a last outcome, zeros when it is absent (spec/10 R176, 10.7, 10.8). -/
def outcomeBytes : Option LastOutcome → List Byte
  | none => [0, 0, 0, 0]
  | some o => [byteOf o.kind.code, byteOf o.step.val] ++ leBytes 2 o.iteration

/-- Payload of a START notice (spec/10 10.8). -/
def StartNotice.payload (n : StartNotice) : List Byte := [byteOf n.reason.code, byteOf n.count]

/-- Payload of a LINK notice (spec/10 10.8). -/
def LinkNotice.payload (n : LinkNotice) : List Byte := [byteOf n.latest.code, n.reasons, byteOf n.count]

/-- Payload of a PLAN notice (spec/10 10.8). -/
def PlanNotice.payload (n : PlanNotice) : List Byte :=
  [byteOf n.condition.code, byteOf n.step.val, byteOf n.attempt] ++ leBytes 2 n.iteration ++
    [byteOf (ofBit n.outcome.isSome)] ++ outcomeBytes n.outcome ++ [byteOf n.count]

/-- Payload of a RESULTS notice (spec/10 10.8). -/
def ResultsNotice.payload (n : ResultsNotice) : List Byte :=
  [byteOf n.held] ++ leBytes 2 n.oldest.toNat ++ leBytes 2 n.newest.toNat ++ [byteOf n.count]

/-! ### The arbiter of TXD (spec/09 R172) -/

/-- What the arbiter sends next, with the transmitter it leaves: the oldest entry of the reply queue, else the
pending notice of highest priority. -/
def Transmitter.choose (x : Transmitter) : Option (QueuedReply × Transmitter) :=
  let notice (kind : Byte) (payload : List Byte) : QueuedReply :=
    { frame := mkFrame 0 kind payload, role := .notice, attached := .nothing }
  match x.queue, x.start, x.link, x.plan, x.results with
  | q :: rest, _, _, _, _ => some (q, { x with queue := rest })
  | [], some n, _, _, _ => some (notice 0x40 n.payload, { x with start := none })
  | [], none, some n, _, _ => some (notice 0x41 n.payload, { x with link := none })
  | [], none, none, some n, _ => some (notice 0x42 n.payload, { x with plan := none })
  | [], none, none, none, some n => some (notice 0x43 n.payload, { x with results := none })
  | [], none, none, none, none => none

/-- The arbiter's choice at the end of a happening: when TXD is free and something waits, the chosen frame begins
(R172). Nothing is sent while nRESET is low (R174). After a break has cut a frame off, the frame chosen begins at
`freeAt`, and a notice chosen stops being pending at the choice: the model's choice (notes/assumptions/15). -/
def State.arbitrate (s : State) : State :=
  if s.nResetLow || s.tx.inFlight.isSome then s
  else
    match s.tx.choose with
    | none => s
    | some (q, x) =>
      let f : InFlight :=
        { frame := q.frame, role := q.role, attached := q.attached, beganAt := max s.now x.freeAt,
          rate := s.rx.rate }
      { s with tx := { x with inFlight := some f } }

/-! ### Probe edges (spec/02 R25) -/

/-- A lane of a probe mode names a line in the role of data line, clock or qualifier. -/
def inputNames (p : ProbeInput) (n : Fin 16) : Bool :=
  p.data.getLsbD n.val || decide (p.clock.line = n) || p.qualifier.any (fun q => decide (q.line = n))

/-- A lane names a probe line in at least one role. -/
def laneNames (l : Lane) (n : Fin 16) : Bool :=
  (match l.mode with
    | .serial p => inputNames p n
    | .parallel p => inputNames p n
    | .host => false) ||
  (match l.start with
    | .edge e => decide (e.line = n)
    | .immediate => false
    | .host => false) ||
  (match l.stop with
    | .edge e => decide (e.line = n)
    | .count _ => false
    | .host => false)

/-- A unit takes delivery of an edge when it is ARMED or OPEN and its lane names the line (R25). -/
def Bound.deliver (e : ProbeEdge) (b : Bound) : Bound :=
  if b.phase ≠ .closed ∧ laneNames b.lane e.line = true then { b with inbox := b.inbox ++ [e] } else b

/-- A probe edge is delivered to the units that R25 names. -/
def State.deliverEdge (e : ProbeEdge) (s : State) : State :=
  { s with units := Vector.ofFn fun u => s.units[u].map (Bound.deliver e) }

/-- The kind of the edge by which a level reaches `b` (spec/02 R24). -/
def edgeTo (b : Bool) : EdgeKind := if b then .rising else .falling

end Sys2Proof.Machine
end

