-- ==== Sys2Proof/Machine/Flags.lean ====
section
/-! DEFINITION. Flag Outputs (spec/07): source values, targets, the stretcher and the pulses. The flags of this
block are its FLAG LINES; the status of a request is in Operands.lean. -/

namespace Sys2Proof.Machine

/-- The source value of a line at the present instant (R126, R128). -/
def State.sourceValue (s : State) (f : FlagLine) : Bool :=
  match f.source with
  | .host => f.hostLevel
  | .pattern => f.patternLevel
  | .active => decide (s.seq.plan ≠ .idle)
  | .window => s.windowSignal
  | .stepEnd => f.pulseEnd.any fun e => decide (s.now < e)
  | .fail => f.pulseEnd.any fun e => decide (s.now < e)
  | .pending => decide (s.queue.records ≠ [])
  | .held => decide (s.seq.plan = .held)

/-- The target of a line: its source value, complemented when invert is on (R125). -/
def State.targetOf (s : State) (f : FlagLine) : Bool := s.sourceValue f ^^ f.invert

/-- A hold is running: the hold end is present and lies after the present instant (R125). -/
def FlagLine.holdRunning (now : Nat) (f : FlagLine) : Bool := f.holdEnd.any fun h => decide (now < h)

/-- The stretcher: with no hold running the output takes the target, and a change starts a hold of W (R129). -/
def FlagLine.stretch (now : Nat) (f : FlagLine) : FlagLine :=
  if f.holdRunning now || f.output == f.target then f
  else { f with output := f.target, holdEnd := if f.width = 0 then none else some (now + micros f.width) }

/-- The line takes a target and the stretcher handles it (R129). -/
def FlagLine.take (now : Nat) (v : Bool) (f : FlagLine) : FlagLine := FlagLine.stretch now { f with target := v }

/-- The latest target of a line: the last change that waits, or the target taken. -/
def FlagLine.latest (f : FlagLine) : Bool := f.changes.getLast?.getD f.target

/-- A change of target that stands at the end of a happening joins the changes that wait (R126). -/
def FlagLine.note (v : Bool) (f : FlagLine) : FlagLine :=
  if f.latest = v then f else { f with changes := f.changes ++ [v] }

/-- Each line whose target a happening that began in `before` has changed notes the target as it stands at the
happening's end (R126). -/
def State.noteTargets (s before : State) : State :=
  { s with flags := Vector.ofFn fun n =>
      if before.targetOf before.flags[n] = s.targetOf s.flags[n] then s.flags[n]
      else (s.flags[n]).note (s.targetOf s.flags[n]) }

/-- A TARGET_CHANGE: the line takes the oldest change that waits (R126, R129). -/
def FlagLine.takeChange (now : Nat) (f : FlagLine) : FlagLine :=
  match f.changes with
  | [] => f
  | v :: rest => FlagLine.take now v { f with changes := rest }

/-- The changes that wait are taken in turn. -/
def FlagLine.takeAll (now : Nat) (f : FlagLine) : FlagLine :=
  f.changes.foldl (fun g v => FlagLine.take now v g) { f with changes := [] }

/-- A HOLD_END: the hold ends, and the output takes the target if it differs (R129). -/
def FlagLine.endHold (now : Nat) (f : FlagLine) : FlagLine :=
  match f.holdEnd with
  | none => f
  | some h => if h ≤ now then FlagLine.stretch now { f with holdEnd := none } else f

/-- A line whose source value is set by a request or by its own pulse end, in state `s`, takes its new target at once
(R129, R131, R132). Changes that still wait are overtaken: they carry a source value that the line no longer shows
(notes/assumptions/23). -/
def State.settleFlag (s : State) (f : FlagLine) : FlagLine := FlagLine.take s.now (s.targetOf f) { f with changes := [] }

/-- A line takes an invert setting and keeps its source: its target and the changes that wait turn with it, and the
changes go on waiting, each with the source value it carries (R126, R131). -/
def FlagLine.reinvert (v : Bool) (f : FlagLine) : FlagLine :=
  { f with
    invert := v
    target := f.target ^^ (f.invert ^^ v)
    changes := f.changes.map fun c => c ^^ (f.invert ^^ v) }

/-- A PULSE_END: the changes that wait come first, then the pulse end becomes absent and the source value 0
(R128). -/
def State.endPulse (s : State) (f : FlagLine) : FlagLine :=
  match f.pulseEnd with
  | none => f
  | some e => if e ≤ s.now then s.settleFlag { (f.takeAll s.now) with pulseEnd := none } else f

/-- A trigger sets the pulse end of each line of its source to the present instant plus the larger of 1 us and
W (R128). -/
def State.trigger (src : FlagSource) (s : State) : State :=
  { s with flags := Vector.ofFn fun n =>
      if s.flags[n].source = src then { s.flags[n] with pulseEnd := some (s.now + micros (max 1 s.flags[n].width)) }
      else s.flags[n] }

/-- A step's flag pattern sets the pattern levels it names HIGH or LOW (R127, spec/05 R84). -/
def State.applyPattern (p : Option (Vector PatternValue 4)) (s : State) : State :=
  match p with
  | none => s
  | some v =>
    { s with flags := Vector.ofFn fun n =>
        match v[n] with
        | .keep => s.flags[n]
        | .low => { s.flags[n] with patternLevel := false }
        | .high => { s.flags[n] with patternLevel := true } }

/-- The run has ended: every pattern level takes its line's rest level (R127). -/
def State.restPatterns (s : State) : State :=
  { s with flags := Vector.ofFn fun n => { s.flags[n] with patternLevel := s.flags[n].restLevel } }

/-- The end of a happening that began in `before`: the PLAN notice if the plan condition changed (spec/05 R104),
the changes of target (R126), and the arbiter's choice (spec/09 R172). -/
def State.finish (s before : State) : State := ((s.noticePlan before).noteTargets before).arbitrate

end Sys2Proof.Machine
end

