-- ==== Sys2Proof/Machine/Units.lean ====
section
/-! DEFINITION. A compactor unit by itself (spec/03): arm, opening, samples, counts, close, and the bits of a
FEED. -/

namespace Sys2Proof.Machine

/-- The bound copy an arm gives (R36), before the opening of an IMMEDIATE window. -/
def Bound.arm (l : Lane) (p : Profile) : Bound :=
  { phase := .armed, lane := l, profile := p, residue := p.seed, samples := 0, transitions := 0, previous := none,
    openedAt := none, reason := none, duration := 0, inbox := [] }

/-- The window opens (R37). -/
def Bound.openWindow (now : Nat) (b : Bound) : Bound :=
  { b with phase := .opened, openedAt := some now, residue := b.profile.seed, previous := none }

/-- The bound copy as the arm leaves it: OPEN when the start is IMMEDIATE (R36, R37). -/
def Bound.armed (now : Nat) (l : Lane) (p : Profile) : Bound :=
  match l.start with
  | .immediate => (Bound.arm l p).openWindow now
  | .edge _ => Bound.arm l p
  | .host => Bound.arm l p

/-- A sample is folded: one parallel fold for a PARALLEL lane, one serial fold of its bit otherwise (R41, R42,
R43). -/
def Bound.foldSample (b : Bound) (sample : List Bool) : Word32 :=
  match b.lane.mode with
  | .parallel _ => parallelFold b.profile b.residue sample
  | .serial _ => sample.foldl (serialFold b.profile) b.residue
  | .host => sample.foldl (serialFold b.profile) b.residue

/-- A transition: the sample differs from the previous one (R44). -/
def Bound.isTransition (b : Bound) (sample : List Bool) : Bool := b.previous.any fun q => decide (q ≠ sample)

/-- A sample is folded, its transition counted, and the sample counted (R41 to R45). -/
def Bound.takeSample (b : Bound) (sample : List Bool) : Bound :=
  { b with
    residue := b.foldSample sample
    transitions := if b.isTransition sample then min (2 ^ 32 - 2) (b.transitions + 1) else b.transitions
    previous := some sample
    samples := min Config.max32 (b.samples + 1) }

/-- The close that the new count brings: STOP on the stop count, else LIMIT on the sample limit (R45). -/
def Bound.countClose (b : Bound) : Option CloseReason :=
  if b.lane.stop = .count b.samples then some .stop
  else if b.lane.sampleLimit = some b.samples then some .limit
  else none

/-- The window duration at a close (R46). -/
def Bound.durationAt (now : Nat) (b : Bound) : Nat :=
  match b.openedAt with
  | none => 0
  | some t => min Config.max32 ((now - t) / Config.ticksPerMicro)

/-- The unit's own part of a close (R47 steps 1 to 4); a CLOSED unit receives no more edges (R51). -/
def Bound.close (now : Nat) (reason : CloseReason) (b : Bound) : Bound :=
  { b with phase := .closed, reason := some reason, duration := b.durationAt now, inbox := [] }

/-- The close report of a unit that closes (R47 steps 5 and 6, R48). -/
def Bound.report (u : Fin 8) (now : Nat) (reason : CloseReason) (b : Bound) : CloseReport :=
  { unit := u, reason := reason, residue := reportedResidue b.profile b.residue, samples := b.samples,
    transitions := b.transitions, duration := b.durationAt now }

/-- Bits of a FEED folded until a count or a limit closes the window: the unit, how many bits were folded, and the
close they bring (R56). -/
def Bound.feedBits : List Bool → Bound → Bound × Nat × Option CloseReason
  | [], b => (b, 0, none)
  | d :: ds, b =>
    let c := b.takeSample [d]
    match c.countClose with
    | some reason => (c, 1, some reason)
    | none =>
      let r := Bound.feedBits ds c
      (r.1, r.2.1 + 1, r.2.2)

/-- The bits of the data bytes of a FEED in the order they fold (R56, spec/01 R9). -/
def feedOrder (p : Profile) (bytes : List Byte) : List Bool := bytes.flatMap (byteBits p.byteOrder)

/-- What an edge does at a unit: nothing, open the window, close it, or give a sample. -/
inductive EdgeEffect where
  | nothing
  | opens
  | closes
  | samples
  deriving DecidableEq, Repr

/-- The edge is the one a line-and-edge field names. -/
def lineMatches (x : LineEdge) (e : ProbeEdge) : Bool := decide (x.line = e.line) && decide (x.edge = e.kind)

/-- The clock, data and qualifier of a probe-mode lane. -/
def probeInput (l : Lane) : Option ProbeInput :=
  match l.mode with
  | .serial p => some p
  | .parallel p => some p
  | .host => none

/-- A clock edge is qualified when the qualifier, if any, stands at its level (R40). -/
def qualified (level : Fin 16 → Bool) (p : ProbeInput) : Bool := p.qualifier.all fun q => level q.line == q.high

/-- What a probe edge does at a unit, given the probe levels (R38, R39, R40). -/
def Bound.edgeEffect (level : Fin 16 → Bool) (e : ProbeEdge) (b : Bound) : EdgeEffect :=
  match b.phase with
  | .armed =>
    match b.lane.start with
    | .edge x => if lineMatches x e then .opens else .nothing
    | .immediate => .nothing
    | .host => .nothing
  | .opened =>
    let stops : Bool :=
      match b.lane.stop with
      | .edge x => lineMatches x e
      | .count _ => false
      | .host => false
    match probeInput b.lane with
    | none => .nothing
    | some p =>
      if stops then .closes
      else if lineMatches p.clock e && qualified level p then .samples
      else .nothing
  | .closed => .nothing

/-- The levels of the data lines in rising line order, the sample of a qualified clock edge (R41, R42,
spec/01 R8). -/
def sampleLevels (level : Fin 16 → Bool) (p : ProbeInput) : List Bool :=
  (allLines.filter fun n => p.data.getLsbD n.val).map level

/-- The sample a qualified clock edge takes at a unit. -/
def Bound.sampleOf (level : Fin 16 → Bool) (b : Bound) : List Bool :=
  match probeInput b.lane with
  | none => []
  | some p => sampleLevels level p

/-- The oldest edge of a line among those delivered to the unit, and the unit without it. -/
def Bound.takeEdge (n : Fin 16) (b : Bound) : Option (ProbeEdge × Bound) :=
  (b.inbox.find? fun e => decide (e.line = n)).map fun e => (e, { b with inbox := b.inbox.erase e })

end Sys2Proof.Machine
end

