-- ==== Sys2Proof/Machine/Queue.lean ====
section
/-! DEFINITION. The Result Queue (spec/06): distance, records, posting, and their bytes. -/

namespace Sys2Proof.Machine

/-- The distance of a sequence from the newest end (R110). -/
def ResultQueue.distance (q : ResultQueue) (x : BitVec 16) : Nat := (q.next - 1 - x).toNat

/-- The sequence of the oldest record (R108). -/
def ResultQueue.oldest (q : ResultQueue) : BitVec 16 := q.next - BitVec.ofNat 16 q.records.length

/-- The sequence of the newest record (R108). -/
def ResultQueue.newest (q : ResultQueue) : BitVec 16 := q.next - 1

/-- The residue check (spec/05 R88). -/
def residueCheck (l : Lane) (r : CloseReport) : CheckResult :=
  match l.expectedResidue with
  | none => .notApplied
  | some x => if r.residue = x then .met else .failed

/-- The count check (spec/05 R88). -/
def countCheck (l : Lane) (r : CloseReport) : CheckResult :=
  match l.expectedCount with
  | none => .notApplied
  | some x => if x.min ≤ r.samples ∧ r.samples ≤ x.max then .met else .failed

/-- The lane verdict (spec/05 R88). -/
def laneVerdict (l : Lane) (r : CloseReport) : Verdict :=
  match r.reason with
  | .stop =>
    match residueCheck l r, countCheck l r with
    | .notApplied, .notApplied => .unchecked
    | .failed, _ => .fail
    | _, .failed => .fail
    | _, _ => .pass
  | .limit => .fault
  | .noStart => .fault
  | .timeLimit => .fault

/-- The step verdict from the lane verdicts (spec/05 R89). -/
def stepVerdictOf (vs : List Verdict) : Verdict :=
  if .fault ∈ vs then .fault else if .fail ∈ vs then .fail else if .pass ∈ vs then .pass else .unchecked

/-- The close report kept for lane position `i + 1`. -/
def Sequencer.reportAt (q : Sequencer) (i : Nat) : Option CloseReport := if h : i < 8 then q.reports[i] else none

/-- The lanes of the step copy, each with its lane position and its close report, in lane order. -/
def Sequencer.judged (q : Sequencer) : List (Lane × Nat × CloseReport) :=
  match q.stepCopy with
  | none => []
  | some r => r.lanes.zipIdx.filterMap fun x => (q.reportAt x.2).map fun c => (x.1, x.2 + 1, c)

/-- No lane of the step copy is without a report (spec/05 R87). -/
def Sequencer.allReported (q : Sequencer) : Bool :=
  match q.stepCopy with
  | none => false
  | some r => r.lanes.zipIdx.all fun x => (q.reportAt x.2).isSome

/-- The step verdict of the attempt (spec/05 R88, R89). -/
def Sequencer.verdict (q : Sequencer) : Verdict := stepVerdictOf (q.judged.map fun x => laneVerdict x.1 x.2.2)

/-- The record of one lane (spec/05 R90), with its sequence number. -/
def Sequencer.record (q : Sequencer) (v : Verdict) (n : BitVec 16) (l : Lane) (pos : Nat) (c : CloseReport) :
    ResultRecord :=
  { sequence := n, step := q.step, label := (q.stepCopy.map (·.label)).getD 0, attempt := q.attempt,
    iteration := q.iteration, lanePosition := pos, unit := l.unit, profile := l.profile, reason := c.reason,
    laneVerdict := laneVerdict l c, stepVerdict := v, residueCheck := residueCheck l c,
    countCheck := countCheck l c, residue := c.residue, samples := c.samples, transitions := c.transitions,
    stepStart := q.stepStart, duration := c.duration }

/-- The records of the attempt in lane order, numbered from `n` on (spec/05 R90, R113). -/
def Sequencer.recordsOf (q : Sequencer) (v : Verdict) (n : BitVec 16) : List ResultRecord :=
  q.judged.zipIdx.map fun x => q.record v (n + BitVec.ofNat 16 x.2) x.1.1 x.1.2.1 x.1.2.2

/-- Records join the queue at its newest end and N advances (R113). -/
def ResultQueue.append (q : ResultQueue) (rs : List ResultRecord) : ResultQueue :=
  { records := q.records ++ rs, next := q.next + BitVec.ofNat 16 rs.length }

/-- There is room for `n` more records (R113). -/
def ResultQueue.hasRoom (q : ResultQueue) (n : Nat) : Bool := decide (n ≤ Config.queueCapacity - q.records.length)

/-- A post that is posted: the records join the queue, and the RESULTS notice is raised when the queue was empty
or the notice is pending (R113, R116). -/
def State.postRecords (rs : List ResultRecord) (s : State) : State :=
  let raises := s.queue.records.isEmpty || s.tx.results.isSome
  let s' := { s with queue := s.queue.append rs }
  if raises then s'.raiseResults else s'

/-- The code of a close reason (spec/10 10.6). -/
def CloseReason.code : CloseReason → Nat
  | .stop => 0
  | .limit => 1
  | .noStart => 2
  | .timeLimit => 3

/-- The code of a verdict (spec/10 10.6). -/
def Verdict.code : Verdict → Nat
  | .pass => 0
  | .fail => 1
  | .unchecked => 2
  | .fault => 3

/-- The code of a check (spec/10 10.6). -/
def CheckResult.code : CheckResult → Nat
  | .notApplied => 0
  | .met => 1
  | .failed => 2

/-- The 31 bytes of a result record (spec/10 10.6). -/
def ResultRecord.bytes (r : ResultRecord) : List Byte :=
  leBytes 2 r.sequence.toNat ++ [byteOf r.step.val] ++ leBytes 2 r.label.toNat ++ leBytes 2 r.iteration ++
    [byteOf (r.attempt + 8 * r.lanePosition), byteOf (r.unit.val + 8 * r.profile.val),
      byteOf (r.reason.code + 4 * r.laneVerdict.code + 16 * r.stepVerdict.code),
      byteOf (r.residueCheck.code + 4 * r.countCheck.code)] ++
    leBytes 4 r.residue.toNat ++ leBytes 4 r.samples ++ leBytes 4 r.transitions ++ leBytes 4 r.stepStart ++
    leBytes 4 r.duration

/-- The bytes of records one after another. -/
def recordBytes (rs : List ResultRecord) : List Byte := rs.flatMap ResultRecord.bytes

end Sys2Proof.Machine
end

