-- ==== Sys2Proof/Machine/Sequencer.lean ====
section
/-! DEFINITION. The Plan Sequencer (spec/05): step start, arm, close reports, step end, hold, boundary, run end. -/

namespace Sys2Proof.Machine

/-! ### Step start (R84, R85) -/

/-- One unit is armed for a lane of the step (spec/03 R36). A lane's slot is always defined (spec/01 R13). -/
def State.armLane (l : Lane) (s : State) : State :=
  match s.profileAt l.profile with
  | none => s
  | some p => { s with units := s.units.set l.unit (some (Bound.armed s.now l p)) }

/-- The units of the step are armed in lane order (R85). -/
def State.armAll (ls : List Lane) (s : State) : State := ls.foldl (fun x l => x.armLane l) s

/-- The settle time has ended: the plan is CAPTURING, the units are armed, the step timer starts (R85). -/
def State.capture (s : State) : State :=
  match s.seq.stepCopy with
  | none => s
  | some r =>
    let s1 := s.armAll r.lanes
    { s1 with seq := { s1.seq with
        plan := .capturing
        settleEndAt := none
        stepTimerAt := if r.timeLimit = 0 then none else some (s1.now + millis r.timeLimit) } }

/-- The current step starts (R84). A current step with no record, which no run reaches (spec/04 R69), starts
nothing (notes/assumptions/19). -/
def State.startStep (s : State) : State :=
  match s.steps[s.seq.step] with
  | none => s
  | some r =>
    let s1 := { s with seq := { s.seq with
      stepCopy := some r, reports := Vector.replicate 8 none, stepStart := s.runClock } }
    let s2 := s1.applyPattern r.pattern
    match r.settle.getD 0 with
    | 0 => s2.capture
    | n + 1 => { s2 with seq := { s2.seq with plan := .settling, settleEndAt := some (s2.now + micros (n + 1)) } }

/-! ### The step boundary (R93 to R97) -/

/-- What a boundary chooses: a start, or the end of the run. -/
inductive Choice where
  | start (step : Fin 96) (attempt iteration : Nat)
  | runEnd (kind : OutcomeKind)
  deriving DecidableEq, Repr

/-- To advance: the next defined step, the first step of a further pass, or the end of the run (R95). -/
def State.advanceChoice (s : State) : Choice :=
  match s.nextDefined s.seq.step.val s.seq.runLast.val with
  | some n => .start n 0 s.seq.iteration
  | none =>
    if s.seq.loopCount = 0 ∨ s.seq.iteration + 1 < s.seq.loopCount then
      match s.firstDefined s.seq.runFirst.val s.seq.runLast.val with
      | some n => .start n 0 ((s.seq.iteration + 1) % 2 ^ 16)
      | none => .runEnd .done
    else .runEnd .done

/-- A verdict of FAIL or FAULT. -/
def Verdict.failing (v : Verdict) : Bool := decide (v = .fail) || decide (v = .fault)

/-- What the boundary chooses for a step verdict (R93, R94, R95). -/
def State.boundaryChoice (v : Verdict) (s : State) : Choice :=
  if v.failing then
    match (s.seq.stepCopy.map (·.onFail)).getD .cont with
    | .cont => s.advanceChoice
    | .halt => .runEnd .halted
    | .retry limit exhaust =>
      if s.seq.attempt < limit then .start s.seq.step (s.seq.attempt + 1) s.seq.iteration
      else
        match exhaust with
        | .cont => s.advanceChoice
        | .halt => .runEnd .halted
  else s.advanceChoice

/-- The run ends at a boundary (R97). -/
def State.endRun (kind : OutcomeKind) (s : State) : State :=
  let s1 := { s with seq := { s.seq with
    plan := .idle, pausePending := false, runClockFrom := none, settleEndAt := none, stepTimerAt := none,
    lastOutcome := some { kind := kind, step := s.seq.step, iteration := s.seq.iteration } } }
  s1.restPatterns

/-- The choice of a boundary is carried out: start, pause or run end (R96, R97). -/
def State.carryOut (c : Choice) (s : State) : State :=
  match c with
  | .runEnd kind => s.endRun kind
  | .start n attempt iteration =>
    let s1 := { s with seq := { s.seq with step := n, attempt := attempt, iteration := iteration } }
    if s.seq.pausePending then { s1 with seq := { s1.seq with plan := .paused, pausePending := false } }
    else s1.startStep

/-- The units that the lanes of the step copy name. -/
def Sequencer.namesUnit (q : Sequencer) (u : Fin 8) : Bool :=
  q.stepCopy.any fun r => r.lanes.any fun l => decide (l.unit = u)

/-- The units of the step are released, and the close reports discarded (R93, spec/03 R52). -/
def State.release (s : State) : State :=
  { s with
    units := Vector.ofFn fun u => if s.seq.namesUnit u then none else s.units[u]
    seq := { s.seq with reports := Vector.replicate 8 none } }

/-- The pulses of a boundary (R93). -/
def State.boundaryPulses (v : Verdict) (s : State) : State :=
  if v.failing then (s.trigger .stepEnd).trigger .fail else s.trigger .stepEnd

/-- The step boundary (R93). -/
def State.boundary (v : Verdict) (s : State) : State :=
  let s1 := s.release.boundaryPulses v
  s1.carryOut (s1.boundaryChoice v)

/-! ### Step end, hold and post (R87, R90, R91, R92) -/

/-- The sequencer asks to post the attempt's records: posted, the boundary follows; not posted, the plan is HELD
with the verdict kept (R90, R91, R92). -/
def State.askToPost (v : Verdict) (s : State) : State :=
  let rs := s.seq.recordsOf v s.queue.next
  if s.queue.hasRoom rs.length then
    let s1 := s.postRecords rs
    { s1 with seq := { s1.seq with heldVerdict := none } }.boundary v
  else { s with seq := { s.seq with plan := .held, heldVerdict := some v } }

/-- The step end: the step timer stops, the verdicts are formed, the records posted or held (R87 to R91). -/
def State.endStep (s : State) : State :=
  { s with seq := { s.seq with stepTimerAt := none } }.askToPost s.seq.verdict

/-- The sequencer asks again from HELD after records were removed (R92). -/
def State.askAgain (s : State) : State :=
  match s.seq.plan, s.seq.heldVerdict with
  | .held, some v => s.askToPost v
  | _, _ => s

/-- The lane position less 1 of the lane that names a unit. -/
def Sequencer.laneOf (q : Sequencer) (u : Fin 8) : Option Nat :=
  q.stepCopy.bind fun r => r.lanes.findIdx? fun l => decide (l.unit = u)

/-- A close report is kept under its lane position; with the last one the step ends (R87). -/
def State.takeReport (c : CloseReport) (s : State) : State :=
  match s.seq.laneOf c.unit with
  | none => s
  | some i =>
    if h : i < 8 then
      let s1 := { s with seq := { s.seq with reports := s.seq.reports.set i (some c) } }
      if s1.seq.allReported then s1.endStep else s1
    else s

/-- A unit closes and hands the sequencer its report (spec/03 R47, R87). -/
def State.closeUnit (reason : CloseReason) (u : Fin 8) (s : State) : State :=
  match s.units[u] with
  | none => s
  | some b =>
    { s with units := s.units.set u (some (b.close s.now reason)) }.takeReport (b.report u s.now reason)

/-- The step timer's expiry at one unit: ARMED closes NO_START, OPEN closes TIME_LIMIT (spec/03 R49). -/
def State.expireUnit (u : Fin 8) (s : State) : State :=
  match s.units[u] with
  | none => s
  | some b =>
    match b.phase with
    | .armed => s.closeUnit .noStart u
    | .opened => s.closeUnit .timeLimit u
    | .closed => s

/-- The units of the current step that are ARMED or OPEN, in lane order. -/
def State.runningUnits (s : State) : List (Fin 8) :=
  match s.seq.stepCopy with
  | none => []
  | some r => (r.lanes.map (·.unit)).filter fun u => s.units[u].any fun b => decide (b.phase ≠ .closed)

/-! ### Ending a run from outside (R100, R106) -/

/-- The run stops at once: timers stop, every unit is IDLE, what the attempt held is discarded, the plan is IDLE,
and the pattern levels return to rest (R100 steps 1 to 6 but for the outcome, spec/03 R58). -/
def State.stopRun (s : State) : State :=
  let s1 := { s with
    units := Vector.replicate 8 none
    seq := { s.seq with
      plan := .idle, pausePending := false, stepCopy := none, runClockFrom := none, settleEndAt := none,
      stepTimerAt := none, reports := Vector.replicate 8 none, heldVerdict := none } }
  s1.restPatterns

/-- The last outcome is recorded with the current step and loop iteration (R103). -/
def State.setOutcome (kind : OutcomeKind) (s : State) : State :=
  { s with seq := { s.seq with
      lastOutcome := some { kind := kind, step := s.seq.step, iteration := s.seq.iteration } } }

/-- A PLAN reset (R106, spec/06 R123, spec/07 R135). -/
def State.planReset (s : State) : State :=
  let s1 := if s.seq.plan = .idle then s.restPatterns else s.stopRun
  { s1 with queue := { s1.queue with records := [] } }.setOutcome .cleared

end Sys2Proof.Machine
end

