-- ==== Sys2Proof/Machine/Operands.lean ====
section
/-! DEFINITION. The operands of requests: codes, payload layouts and the checks that turn payload bytes into records
(spec/10), with the statuses of replies (spec/09 9.4). -/

namespace Sys2Proof.Machine

/-- The statuses of replies (spec/09 9.4). -/
inductive Status where
  | ok
  | unknownKind
  | malformed
  | range
  | planActive
  | planIdle
  | notPaused
  | profileInUse
  | profileEmpty
  | profileFixed
  | stepEmpty
  | noSteps
  | unitClash
  | laneState
  | seqAhead
  | seqAbsent
  | overrun
  deriving DecidableEq, Repr

/-- The code of a status (spec/10 10.3). -/
def Status.code : Status → Nat
  | .ok => 0
  | .unknownKind => 1
  | .malformed => 2
  | .range => 3
  | .planActive => 4
  | .planIdle => 5
  | .notPaused => 6
  | .profileInUse => 7
  | .profileEmpty => 8
  | .profileFixed => 9
  | .stepEmpty => 10
  | .noSteps => 11
  | .unitClash => 12
  | .laneState => 13
  | .seqAhead => 14
  | .seqAbsent => 15
  | .overrun => 16

/-- A reply before it is framed: status, detail, data, and what its last byte brings about (spec/09 R162). -/
structure Reply where
  status : Status
  detail : Nat
  data : List Byte
  attached : Attached
  deriving DecidableEq, Repr

/-- A reply with status OK, detail 0 and data. -/
def Reply.okWith (data : List Byte) : Reply := { status := .ok, detail := 0, data := data, attached := .nothing }

/-- A refusal with detail 0 and no data (R162). -/
def Reply.refuse (st : Status) : Reply := { status := st, detail := 0, data := [], attached := .nothing }

/-- The payload of a reply (spec/10 10.2 note 2). -/
def Reply.payload (r : Reply) : List Byte := byteOf r.status.code :: byteOf r.detail :: r.data

/-! ### Request kinds (spec/10 10.3) -/

/-- The request codes 0x01 to 0x18. -/
inductive ReqKind where
  | hello
  | status
  | setNotices
  | reset
  | setLink
  | defineStep
  | readStep
  | eraseSteps
  | readResults
  | ackResults
  | defineProfile
  | readProfile
  | eraseProfile
  | compute
  | setProbe
  | readProbes
  | run
  | pause
  | resume
  | abort
  | mark
  | feed
  | setFlag
  | driveFlags
  deriving DecidableEq, Repr

/-- The request a KIND code names, if it names one. -/
def ReqKind.ofCode (k : Byte) : Option ReqKind :=
  match k.toNat with
  | 0x01 => some .hello
  | 0x02 => some .status
  | 0x03 => some .setNotices
  | 0x04 => some .reset
  | 0x05 => some .setLink
  | 0x06 => some .defineStep
  | 0x07 => some .readStep
  | 0x08 => some .eraseSteps
  | 0x09 => some .readResults
  | 0x0A => some .ackResults
  | 0x0B => some .defineProfile
  | 0x0C => some .readProfile
  | 0x0D => some .eraseProfile
  | 0x0E => some .compute
  | 0x0F => some .setProbe
  | 0x10 => some .readProbes
  | 0x11 => some .run
  | 0x12 => some .pause
  | 0x13 => some .resume
  | 0x14 => some .abort
  | 0x15 => some .mark
  | 0x16 => some .feed
  | 0x17 => some .setFlag
  | 0x18 => some .driveFlags
  | _ => none

/-! ### Reading a payload -/

/-- The number in the next `n` bytes, and the bytes after them (R175). -/
def readNum (n : Nat) (bs : List Byte) : Option (Nat × List Byte) :=
  if n ≤ bs.length then some (ofLeBytes (bs.take n), bs.drop n) else none

/-- The number in the next `n` bytes when a presence bit is set (spec/10 10.5). -/
def readIf (present : Bool) (n : Nat) (bs : List Byte) : Option (Option Nat × List Byte) :=
  if present then (readNum n bs).map fun x => (some x.1, x.2) else some (none, bs)

/-- The fields of a lane as its bytes hold them (spec/10 10.5). -/
structure RawLane where
  unit : Nat
  mode : Nat
  startKind : Nat
  slot : Nat
  stopKind : Nat
  data : Option Nat
  clock : Option Nat
  qualifier : Option Nat
  startLine : Option Nat
  stopParam : Option Nat
  sampleLimit : Option Nat
  expectedResidue : Option Nat
  countMin : Option Nat
  countMax : Option Nat
  deriving DecidableEq, Repr

/-- How many bytes the stop parameter takes (R178). -/
def stopParamBytes (stopKind : Nat) : Nat := if stopKind = 0 then 1 else 4

/-- One lane read from the front of a payload (spec/10 10.5, R178). -/
def readLane (bs : List Byte) : Option (RawLane × List Byte) :=
  match bs with
  | b0 :: b1 :: b2 :: r0 =>
    let startKind := fieldOf b0 6 2
    let stopKind := fieldOf b1 5 2
    (readIf (bitOf b2 0) 2 r0).bind fun (data, r1) =>
    (readIf (bitOf b2 1) 1 r1).bind fun (clock, r2) =>
    (readIf (bitOf b2 2) 1 r2).bind fun (qualifier, r3) =>
    (readIf (decide (startKind = 1)) 1 r3).bind fun (startLine, r4) =>
    (readIf (decide (stopKind < 2)) (stopParamBytes stopKind) r4).bind fun (stopParam, r5) =>
    (readIf (bitOf b2 3) 4 r5).bind fun (sampleLimit, r6) =>
    (readIf (bitOf b2 4) 4 r6).bind fun (expectedResidue, r7) =>
    (readIf (bitOf b2 5) 4 r7).bind fun (countMin, r8) =>
    (readIf (bitOf b2 5) 4 r8).map fun (countMax, r9) =>
      ({ unit := fieldOf b0 0 4, mode := fieldOf b0 4 2, startKind := startKind, slot := fieldOf b1 0 5,
         stopKind := stopKind, data := data, clock := clock, qualifier := qualifier, startLine := startLine,
         stopParam := stopParam, sampleLimit := sampleLimit, expectedResidue := expectedResidue,
         countMin := countMin, countMax := countMax }, r9)
  | _ => none

/-- `n` lanes read one after another (R178). -/
def readLanes : Nat → List Byte → Option (List RawLane × List Byte)
  | 0, bs => some ([], bs)
  | n + 1, bs => (readLane bs).bind fun (l, r) => (readLanes n r).map fun (ls, r') => (l :: ls, r')

/-- The fields of a step record as its bytes hold them (spec/10 10.5). -/
structure RawStep where
  number : Nat
  laneCount : Nat
  label : Nat
  timeLimit : Nat
  onFail : Nat
  settle : Option Nat
  pattern : Option Nat
  retryLimit : Option Nat
  exhaust : Option Nat
  lanes : List RawLane
  deriving DecidableEq, Repr

/-- The payload of a DEFINE STEP, none when its length is not the one it declares (R178). -/
def readStepPayload (bs : List Byte) : Option RawStep :=
  match bs with
  | b0 :: b1 :: b2 :: b3 :: b4 :: b5 :: b6 :: b7 :: r0 =>
    (readIf (bitOf b7 0) 2 r0).bind fun (settle, r1) =>
    (readIf (bitOf b7 1) 1 r1).bind fun (pattern, r2) =>
    (readIf (bitOf b7 2) 1 r2).bind fun (retryLimit, r3) =>
    (readIf (bitOf b7 3) 1 r3).bind fun (exhaust, r4) =>
    (readLanes b1.toNat r4).bind fun (lanes, r5) =>
      if r5.isEmpty then
        some { number := b0.toNat, laneCount := b1.toNat, label := ofLeBytes [b2, b3],
               timeLimit := ofLeBytes [b4, b5], onFail := b6.toNat, settle := settle, pattern := pattern,
               retryLimit := retryLimit, exhaust := exhaust, lanes := lanes }
      else none
  | _ => none

/-! ### Checks of a step record (spec/04 R71, R72, R73) -/

/-- The value of a two-bit pattern code, none for code 3 (spec/10 10.5). -/
def patternOf (c : Nat) : Option PatternValue :=
  match c with
  | 0 => some .keep
  | 1 => some .low
  | 2 => some .high
  | _ => none

/-- The flag pattern in a byte, two bits for each line (spec/10 10.5). -/
def patternVector (n : Nat) : Option (Vector PatternValue 4) :=
  match patternOf (n % 4), patternOf (n / 4 % 4), patternOf (n / 16 % 4), patternOf (n / 64 % 4) with
  | some a, some b, some c, some d => some #v[a, b, c, d]
  | _, _, _, _ => none

/-- The line and the sense of a line-sense byte, none outside their values (spec/10 10.5 note 1). -/
def lineSense (n : Nat) : Option (Fin 16 × Bool) :=
  if h : n % 32 < 16 then
    if n / 32 % 4 < 2 then some (⟨n % 32, h⟩, decide (n / 32 % 4 = 1)) else none
  else none

/-- A line-sense byte as a line and an edge: sense 0 RISING, 1 FALLING. -/
def lineEdgeOf (n : Nat) : Option LineEdge :=
  (lineSense n).map fun x => { line := x.1, edge := if x.2 then .falling else .rising }

/-- A line-sense byte as a line and a level: sense 0 LOW, 1 HIGH. -/
def lineLevelOf (n : Nat) : Option LineLevel := (lineSense n).map fun x => { line := x.1, high := x.2 }

/-- The probe fields of a SERIAL or PARALLEL lane, none when check 6 of R72 fails. -/
def probeFields (l : RawLane) : Option ProbeInput :=
  match l.data, l.clock.bind lineEdgeOf with
  | some d, some c =>
    match l.qualifier with
    | none => some { data := BitVec.ofNat 16 d, clock := c, qualifier := none }
    | some q => (lineLevelOf q).map fun x => { data := BitVec.ofNat 16 d, clock := c, qualifier := some x }
  | _, _ => none

/-- The mode with its fields, none when check 6 of R72 fails; the mode code is below 3 (check 5). -/
def modeOf (l : RawLane) : Option LaneMode :=
  match l.mode with
  | 0 => (probeFields l).map .serial
  | 1 => (probeFields l).map .parallel
  | _ => if l.data.isNone && l.clock.isNone && l.qualifier.isNone then some .host else none

/-- The start of a lane, none when check 7 of R72 fails. -/
def startOf (m : LaneMode) (l : RawLane) : Option StartKind :=
  match l.startKind with
  | 0 => some .immediate
  | 1 => if m = .host then none else (l.startLine.bind lineEdgeOf).map .edge
  | 2 => some .host
  | _ => none

/-- The stop of a lane, none when check 8 of R72 fails. -/
def stopOf (m : LaneMode) (l : RawLane) : Option StopKind :=
  match l.stopKind with
  | 0 => if m = .host then none else (l.stopParam.bind lineEdgeOf).map .edge
  | 1 => l.stopParam.bind fun n => if n = 0 then none else some (.count n)
  | 2 => some .host
  | _ => none

/-- The data set has the size its mode and the profile width allow (R73). -/
def dataSetFits (m : LaneMode) (w : Nat) : Bool :=
  match m with
  | .serial p => decide (lineCount p.data = 1)
  | .parallel p => decide (1 ≤ lineCount p.data) && decide (lineCount p.data ≤ min 16 w)
  | .host => true

/-- Checks 5 to 12 of R72, with R73, of a lane whose unit and profile have passed. -/
def laneFields (u : Fin 8) (slot : Fin 16) (w : Nat) (l : RawLane) : Option Lane :=
  if 3 ≤ l.mode then none
  else
    (modeOf l).bind fun m =>
    (startOf m l).bind fun st =>
    (stopOf m l).bind fun sp =>
      if l.sampleLimit = some 0 then none
      else if dataSetFits m w = false then none
      else if l.expectedResidue.any (fun x => decide (2 ^ w ≤ x)) then none
      else
        match l.countMin, l.countMax with
        | some lo, some hi =>
          if hi < lo then none
          else some { unit := u, profile := slot, mode := m, start := st, stop := sp, sampleLimit := l.sampleLimit,
                      expectedResidue := l.expectedResidue.map (BitVec.ofNat 32),
                      expectedCount := some { min := lo, max := hi } }
        | _, _ =>
          some { unit := u, profile := slot, mode := m, start := st, stop := sp, sampleLimit := l.sampleLimit,
                 expectedResidue := l.expectedResidue.map (BitVec.ofNat 32), expectedCount := none }

/-- One lane checked in the order of R72, given the units of the lanes before it: the lane, or the status of the
first fault. -/
def checkLane (width : Fin 16 → Option Nat) (before : List (Fin 8)) (l : RawLane) : Except Status Lane :=
  if hu : l.unit < 8 then
    if (⟨l.unit, hu⟩ : Fin 8) ∈ before then .error .unitClash
    else if hp : l.slot < 16 then
      match width ⟨l.slot, hp⟩ with
      | none => .error .profileEmpty
      | some w =>
        match laneFields ⟨l.unit, hu⟩ ⟨l.slot, hp⟩ w l with
        | none => .error .range
        | some x => .ok x
    else .error .range
  else .error .range

/-- The lanes checked one by one from a position on: the lanes, or the status and the position of the first fault
(R70 step 4). -/
def checkLanes (width : Fin 16 → Option Nat) : Nat → List (Fin 8) → List RawLane → Except (Status × Nat) (List Lane)
  | _, _, [] => .ok []
  | pos, before, l :: ls =>
    match checkLane width before l with
    | .error st => .error (st, pos)
    | .ok x =>
      match checkLanes width (pos + 1) (before ++ [x.unit]) ls with
      | .error e => .error e
      | .ok xs => .ok (x :: xs)

/-- The on-fail fields checked in the order of R71 checks 4 to 8, none on a fault. -/
def onFailOf (r : RawStep) : Option OnFail :=
  match r.onFail with
  | 0 => if r.retryLimit.isNone && r.exhaust.isNone then some .cont else none
  | 1 => if r.retryLimit.isNone && r.exhaust.isNone then some .halt else none
  | 2 =>
    match r.retryLimit, r.exhaust with
    | some n, some 0 => if 1 ≤ n ∧ n ≤ 7 then some (.retry n .cont) else none
    | some n, some 1 => if 1 ≤ n ∧ n ≤ 7 then some (.retry n .halt) else none
    | _, _ => none
  | _ => none

/-- The flag pattern of a header: absent, or the four values, none on a fault (R71 check 3). -/
def patternField (r : RawStep) : Option (Option (Vector PatternValue 4)) :=
  match r.pattern with
  | none => some none
  | some n => (patternVector n).map some

/-- A step record checked by R71 to R73: the record, or the status and the detail of the first fault. Every header
fault gives RANGE with detail 0. -/
def checkStep (width : Fin 16 → Option Nat) (r : RawStep) : Except (Status × Nat) StepRecord :=
  if hn : r.number < 96 then
    if r.laneCount = 0 ∨ 8 < r.laneCount then .error (.range, 0)
    else
      match patternField r, onFailOf r with
      | some pat, some act =>
        match checkLanes width 1 [] r.lanes with
        | .error e => .error e
        | .ok ls =>
          .ok { number := ⟨r.number, hn⟩, label := BitVec.ofNat 16 r.label, timeLimit := r.timeLimit,
                settle := r.settle, pattern := pat, onFail := act, lanes := ls }
      | _, _ => .error (.range, 0)
  else .error (.range, 0)

/-! ### Bytes of a step record (spec/10 10.5, R178) -/

/-- A line-sense byte (10.5 note 1). -/
def senseByte (line : Fin 16) (sense : Bool) : Byte := byteOf (line.val + 32 * ofBit sense)

/-- A line and an edge as a line-sense byte. -/
def edgeByte (e : LineEdge) : Byte := senseByte e.line (decide (e.edge = .falling))

/-- A line and a level as a line-sense byte. -/
def levelByte (q : LineLevel) : Byte := senseByte q.line q.high

/-- The code of a lane mode. -/
def modeCode : LaneMode → Nat
  | .serial _ => 0
  | .parallel _ => 1
  | .host => 2

/-- The code of a start kind. -/
def startCode : StartKind → Nat
  | .immediate => 0
  | .edge _ => 1
  | .host => 2

/-- The code of a stop kind. -/
def stopCode : StopKind → Nat
  | .edge _ => 0
  | .count _ => 1
  | .host => 2

/-- A number as `k` bytes when it is present. -/
def optBytes (k : Nat) (x : Option Nat) : List Byte :=
  match x with
  | none => []
  | some n => leBytes k n

/-- The bytes of a lane (10.5). -/
def laneBytes (l : Lane) : List Byte :=
  let p := probeInput l
  let q := p.bind (·.qualifier)
  [byteOf (l.unit.val + 16 * modeCode l.mode + 64 * startCode l.start),
    byteOf (l.profile.val + 32 * stopCode l.stop),
    byteOf (ofBits [p.isSome, p.isSome, q.isSome, l.sampleLimit.isSome, l.expectedResidue.isSome,
      l.expectedCount.isSome])] ++
  (match p with
    | none => []
    | some x => leBytes 2 x.data.toNat ++ [edgeByte x.clock]) ++
  (match q with
    | none => []
    | some x => [levelByte x]) ++
  (match l.start with
    | .edge e => [edgeByte e]
    | .immediate => []
    | .host => []) ++
  (match l.stop with
    | .edge e => [edgeByte e]
    | .count n => leBytes 4 n
    | .host => []) ++
  optBytes 4 l.sampleLimit ++ optBytes 4 (l.expectedResidue.map (·.toNat)) ++
  optBytes 4 (l.expectedCount.map (·.min)) ++ optBytes 4 (l.expectedCount.map (·.max))

/-- The code of a pattern value (10.5). -/
def patternCode : PatternValue → Nat
  | .keep => 0
  | .low => 1
  | .high => 2

/-- A flag pattern as a byte. -/
def patternByte (v : Vector PatternValue 4) : Byte :=
  byteOf (patternCode v[0] + 4 * patternCode v[1] + 16 * patternCode v[2] + 64 * patternCode v[3])

/-- The code of an on-fail field, with the retry limit and the exhaust code it holds. -/
def onFailCode : OnFail → Nat × Option Nat × Option Nat
  | .cont => (0, none, none)
  | .halt => (1, none, none)
  | .retry n .cont => (2, some n, some 0)
  | .retry n .halt => (2, some n, some 1)

/-- The bytes of a step record, as DEFINE STEP takes and READ STEP gives them (10.5, R178). -/
def stepBytes (r : StepRecord) : List Byte :=
  let f := onFailCode r.onFail
  [byteOf r.number.val, byteOf r.lanes.length] ++ leBytes 2 r.label.toNat ++ leBytes 2 r.timeLimit ++
    [byteOf f.1, byteOf (ofBits [r.settle.isSome, r.pattern.isSome, f.2.1.isSome, f.2.2.isSome])] ++
    optBytes 2 r.settle ++
    (match r.pattern with
      | none => []
      | some v => [patternByte v]) ++
    optBytes 1 f.2.1 ++ optBytes 1 f.2.2 ++ r.lanes.flatMap laneBytes

/-! ### Profiles (spec/10 10.4, spec/01 R14) -/

/-- The detail of the first profile field that fails, or the profile (R14). The fields are the sixteen bytes of
10.4 after the slot, in order. -/
def checkProfile (w poly seed mask dir order : Nat) : Except Nat Profile :=
  if w < 4 ∨ 32 < w then .error 1
  else if 2 ^ w ≤ poly ∨ poly % 2 = 0 then .error 2
  else if 2 ^ w ≤ seed then .error 3
  else if 2 ^ w ≤ mask then .error 4
  else if 1 < dir then .error 5
  else if 1 < order then .error 6
  else .ok { width := w, poly := BitVec.ofNat 32 poly, seed := BitVec.ofNat 32 seed,
             finalMask := BitVec.ofNat 32 mask, direction := if dir = 0 then .left else .right,
             byteOrder := if order = 0 then .msbFirst else .lsbFirst }

/-- The code of a direction (10.4). -/
def directionCode : Direction → Nat
  | .left => 0
  | .right => 1

/-- The code of a byte order (10.4). -/
def byteOrderCode : ByteOrder → Nat
  | .msbFirst => 0
  | .lsbFirst => 1

/-- The sixteen bytes of a profile with its slot (10.4). -/
def profileBytes (slot : Fin 16) (p : Profile) : List Byte :=
  [byteOf slot.val, byteOf p.width] ++ leBytes 4 p.poly.toNat ++ leBytes 4 p.seed.toNat ++
    leBytes 4 p.finalMask.toNat ++ [byteOf (directionCode p.direction), byteOf (byteOrderCode p.byteOrder)]

/-! ### Flag lines (spec/10 10.3 note 3) -/

/-- The source of a source code. -/
def flagSourceOf (n : Nat) : Option FlagSource :=
  match n with
  | 0 => some .host
  | 1 => some .pattern
  | 2 => some .active
  | 3 => some .window
  | 4 => some .stepEnd
  | 5 => some .fail
  | 6 => some .pending
  | 7 => some .held
  | _ => none

/-! ### STATUS (spec/10 10.7) -/

/-- The code of a plan state. -/
def planCode : PlanState → Nat
  | .idle => 0
  | .settling => 1
  | .capturing => 2
  | .held => 3
  | .paused => 4

/-- The two bytes of unit states, two bits for each unit. -/
def unitStateBytes (s : State) : List Byte :=
  leBytes 2 (allUnits.foldl (fun acc u => acc + unitCode s.units[u] * 4 ^ u.val) 0)

/-- The data of the STATUS reply (R102, 10.7 from offset 2 on). -/
def statusBytes (s : State) : List Byte :=
  let c := s.queue.records.length
  [byteOf (planCode s.seq.plan), byteOf s.seq.runFirst.val, byteOf s.seq.runLast.val] ++
    leBytes 2 s.seq.loopCount ++ [byteOf s.seq.step.val, byteOf s.seq.attempt] ++ leBytes 2 s.seq.iteration ++
    [byteOf (ofBits [s.seq.pausePending, s.seq.lastOutcome.isSome])] ++ outcomeBytes s.seq.lastOutcome ++
    unitStateBytes s ++ [byteOf c] ++
    (if c = 0 then [0, 0, 0, 0] else leBytes 2 s.queue.oldest.toNat ++ leBytes 2 s.queue.newest.toNat) ++
    leBytes 2 s.queue.next.toNat

end Sys2Proof.Machine
end

