-- ==== Sys2Proof/Machine/Interpreter.lean ====
section
/-! DEFINITION. The Request Interpreter (spec/09 9.2, 9.3): when a request can be taken, which row a frame is, and
what every taking does around the request's own rule. -/

namespace Sys2Proof.Machine

/-- The places of the reply queue that replies of interpreted requests hold, the one in flight among them (R157). -/
def State.placesHeld (s : State) : Nat :=
  (s.tx.queue.filter fun q => decide (q.role = .reply)).length +
    ofBit (s.tx.inFlight.any fun f => decide (f.role = .reply))

/-- The refusals that wait in the reply queue (spec/08 R148). -/
def State.refusalsWaiting (s : State) : Nat := (s.tx.queue.filter fun q => decide (q.role = .refusal)).length

/-- The conditions of R156 on everything but the queue's frames; nothing is taken while nRESET is low (R174). -/
def State.mayTake (s : State) : Bool :=
  !s.nResetLow && !s.interp.resetPending && decide (s.placesHeld < Config.replyPlaces)

/-- The RETRY flag (R161). -/
def Frame.retry (f : Frame) : Bool := bitOf f.ctrl 0

/-- The cached reply of a tag (R159, R160). -/
def Interpreter.cached (i : Interpreter) (tag : Byte) : Option OutFrame :=
  (i.cache.find? fun e => decide (e.tag = tag)).map (·.frame)

/-- The cache after a reply is written under a tag: as the newest entry, an older one of the tag replaced, the
oldest entry removed where eight others stand (R159). -/
def writeCache (tag : Byte) (f : OutFrame) (c : List CacheEntry) : List CacheEntry :=
  let rest := c.filter fun e => decide (e.tag ≠ tag)
  let kept := if rest.length < Config.cacheCapacity then rest else rest.drop (rest.length + 1 - Config.cacheCapacity)
  kept ++ [{ tag := tag, frame := f }]

/-- The end of a taking: the reply is written into the cache without its attachment and enters the reply queue
(R158, R159). -/
def State.giveReply (tag : Byte) (f : OutFrame) (a : Attached) (s : State) : State :=
  { s with
    interp := { s.interp with cache := writeCache tag f s.interp.cache }
    tx := { s.tx with queue := s.tx.queue ++ [{ frame := f, role := .reply, attached := a }] } }

/-- The reply frame made by executing a request (R161). -/
def replyFrame (f : Frame) (r : Reply) : OutFrame := mkFrame f.tag (f.kind + 0x80) r.payload

/-- What a taking does with the frame it has removed: the cached reply, or the request's own rule and its reply
(R158, R160). -/
def State.treat (body : List Byte → State → State × Reply) (f : Frame) (s : State) : State :=
  match (if f.retry then s.interp.cached f.tag else none) with
  | some old => s.giveReply f.tag old .nothing
  | none =>
    let r := body f.payload s
    r.1.giveReply f.tag (replyFrame f r.2) r.2.attached

/-- A taking of the oldest frame by the row that `row` recognises, with the request's own rule `body`
(R156, R158). Where the conditions of R156 do not hold, or the oldest frame is another row's, the taking does not
come about (notes/assumptions/4, notes/assumptions/8). -/
def State.takeRequest (row : Frame → Bool) (body : List Byte → State → State × Reply) (s : State) : State :=
  match s.interp.requests with
  | [] => s
  | f :: rest =>
    if s.mayTake && row f then
      let s1 := { s with interp := { s.interp with requests := rest } }
      (s1.treat body f).finish s
    else s

/-- A frame's KIND names a request. -/
def Frame.isKind (k : ReqKind) (f : Frame) : Bool := decide (ReqKind.ofCode f.kind = some k)

/-- A frame's KIND names no request (R158). -/
def Frame.isUnknown (f : Frame) : Bool := decide (ReqKind.ofCode f.kind = none)

/-- A RESET that is not a fitting one of scope FULL: the row RESET_PLAN (notes/assumptions/8). -/
def Frame.isResetPlan (f : Frame) : Bool := f.isKind .reset && decide (f.payload ≠ [1])

/-- A RESET that is not a fitting one of scope PLAN: the row RESET_FULL. -/
def Frame.isResetFull (f : Frame) : Bool := f.isKind .reset && decide (f.payload ≠ [0])

/-- The kind byte of a fitting MARK. -/
def markKind (payload : List Byte) : Option Nat :=
  match payload with
  | [_, k] => if k.toNat < 2 then some k.toNat else none
  | _ => none

/-- A MARK that is not a fitting one of kind STOP: the row MARK_START (notes/assumptions/8). -/
def Frame.isMarkStart (f : Frame) : Bool := f.isKind .mark && decide (markKind f.payload ≠ some 1)

/-- A MARK that is not a fitting one of kind START: the row MARK_STOP. -/
def Frame.isMarkStop (f : Frame) : Bool := f.isKind .mark && decide (markKind f.payload ≠ some 0)

/-- A request without parameters (10.3): MALFORMED unless its payload is empty, else its own rule. -/
def noParameters (own : State → State × Reply) (payload : List Byte) (s : State) : State × Reply :=
  if payload.isEmpty then own s else (s, .refuse .malformed)

end Sys2Proof.Machine
end

