-- ==== Sys2Proof/Machine/Resets.lean ====
section
/-! DEFINITION. Power-on, the reset line and the FULL reset, block by block (spec/09 R167, R174). -/

namespace Sys2Proof.Machine

/-- Every block at its power-on state at the present instant, with nothing pending for TXD (R174; R31, R19, R78,
R59, R107, R123, R134, R155). The commands that wait and the count of choices are the model's own and stay. -/
def State.cleared (rx : Receiver) (probes : Vector ProbeLine 16) (s : State) : State :=
  { now := s.now, nResetLow := false, probes := probes, profiles := Vector.replicate 14 none,
    steps := Vector.replicate 96 none, units := Vector.replicate 8 none, seq := Sequencer.afterReset,
    queue := ResultQueue.afterReset, flags := Vector.replicate 4 FlagLine.afterReset, rx := rx,
    interp := Interpreter.afterReset, tx := { Transmitter.afterReset with freeAt := s.now }, choices := s.choices,
    pending := s.pending }

/-- The receiver as a reset of the part leaves it: a low RXD is timed as a break from now (spec/08 R155). -/
def Receiver.fromReset (now : Nat) (rxdLow : Bool) : Receiver :=
  { Receiver.afterReset with low := if rxdLow then .timed now else .untimed }

/-- The probe lines at the end of a reset: the levels of the pins (spec/02 R31, R32). -/
def State.resampled (s : State) : Vector ProbeLine 16 := Vector.ofFn fun n => ProbeLine.afterReset s.probes[n].pin

/-- POWER_ON (R174, R170; spec/00 0.8.5). -/
def execPowerOn (t : Nat) (pins : BitVec 16) (rxdLow : Bool) (s : State) : Result :=
  let s0 := s.advance t
  let probes := Vector.ofFn fun n : Fin 16 => ProbeLine.afterReset (pins.getLsbD n.val)
  .next ((s0.cleared (Receiver.fromReset s0.now rxdLow) probes).raiseStart .powerUp).arbitrate

/-- RESET_LINE_ASSERT: the flag lines go low, RXD is not read, TXD idles high, nothing is taken (R134, R155, R174).
The blocks take their reset values with it (notes/assumptions/7). -/
def execResetLineAssert (t : Nat) (s : State) : Result :=
  let s0 := s.advance t
  if s0.nResetLow then .next s0 else .next { s0.cleared Receiver.afterReset s0.resampled with nResetLow := true }

/-- RESET_LINE: nRESET returns high (R170, R174; spec/02 R31). -/
def execResetLine (t : Nat) (rxdLow : Bool) (s : State) : Result :=
  let s0 := s.advance t
  if s0.nResetLow then
    .next ((s0.cleared (Receiver.fromReset s0.now rxdLow) s0.resampled).raiseStart .resetLine).arbitrate
  else .next s0

/-- A low level through a FULL reset: a watch ends without a fault, its timing goes on (spec/08 R155). -/
def LowLevel.afterFullReset : LowLevel → LowLevel
  | .watched since => .timed since
  | .timed since => .timed since
  | .dropped since => .dropped since
  | .afterBreak => .afterBreak
  | .untimed => .untimed

/-- The Link Receiver at a FULL reset: HUNT, with the rate, the gap limit and a character in reception kept
(spec/08 R155, notes/assumptions/12). -/
def Receiver.afterFullReset (r : Receiver) : Receiver :=
  { r with state := .hunt, gapFrom := none, low := r.low.afterFullReset }

/-- The application of a FULL reset (R167). -/
def State.fullReset (s : State) : State :=
  let s1 := { s with
    probes := s.resampled
    profiles := Vector.replicate 14 none
    steps := Vector.replicate 96 none
    units := Vector.replicate 8 none
    seq := Sequencer.afterReset
    queue := ResultQueue.afterReset
    flags := Vector.replicate 4 FlagLine.afterReset
    rx := s.rx.afterFullReset
    interp := Interpreter.afterReset
    tx := { s.tx with queue := [], inFlight := none, plan := none, results := none } }
  s1.raiseStart .fullReset

end Sys2Proof.Machine
end

