-- ==== Sys2Proof/Machine/ProbeLines.lean ====
section
/-! DEFINITION. Probe Inputs (spec/02): the stability filter, its commands and requests. -/

namespace Sys2Proof.Machine

/-- The inverted level of a line (R21). -/
def ProbeLine.inverted (p : ProbeLine) : Bool := p.pin ^^ p.invert

/-- The line's probe level takes a level: a change is a probe edge, which sets the mark (R24, R27). -/
def ProbeLine.takeLevel (v : Bool) (p : ProbeLine) : ProbeLine :=
  if p.level = v then p else { p with level := v, mark := true }

/-- A change of the inverted level at the filter (R22, rows 1 to 3). -/
def ProbeLine.filterChange (now : Nat) (p : ProbeLine) : ProbeLine :=
  match p.state with
  | .steady => if p.filter = 0 then p.takeLevel p.inverted else { p with state := .pending now }
  | .pending _ => { p with state := .steady }

/-- The filter time of a pending change has run (R22, row 4). -/
def ProbeLine.filterDone (now : Nat) (p : ProbeLine) : Bool :=
  match p.state with
  | .steady => false
  | .pending start => decide (start + micros p.filter ≤ now)

/-- The pending change is accepted (R22, row 4). -/
def ProbeLine.accept (p : ProbeLine) : ProbeLine := { p.takeLevel p.inverted with state := .steady }

/-- The line takes the settings of a SET PROBE and its timing restarts (R29). -/
def ProbeLine.configure (now : Nat) (invert : Bool) (filter : Nat) (p : ProbeLine) : ProbeLine :=
  let q := { p with invert := invert, filter := filter }
  if q.inverted = q.level then { q with state := .steady }
  else if filter = 0 then { q.takeLevel q.inverted with state := .steady }
  else { q with state := .pending now }

/-- Line `n` becomes `p`; a change of its probe level is an edge, delivered by R25 (R24). -/
def State.setLine (n : Fin 16) (p : ProbeLine) (s : State) : State :=
  let s1 := { s with probes := s.probes.set n p }
  if s.probes[n].level = p.level then s1 else s1.deliverEdge { line := n, kind := edgeTo p.level }

/-- The probe level of a line, as units read it (R26). -/
def State.levelOf (s : State) (n : Fin 16) : Bool := s.probes[n].level

/-- A line whose pending level has held for its filter time accepts it (R22, row 4); any other line stands. -/
def State.acceptDue (n : Fin 16) (s : State) : State :=
  if s.probes[n].filterDone s.now then s.setLine n s.probes[n].accept else s

/-- PIN_CHANGE (R21, R22). A level that has held for exactly F us by the instant of the change is seen: it is accepted
before the change. While nRESET is low the level follows the pin without an edge or a mark (R31). -/
def execPinChange (t : Nat) (line : Fin 16) (level : Bool) (s : State) : Result :=
  let s0 := s.advance t
  let p := s0.probes[line]
  if p.pin = level then .next s0
  else if s0.nResetLow then
    .next { s0 with probes := s0.probes.set line { p with
      pin := level, level := level ^^ p.invert, state := .steady } }
  else
    let s1 := s0.acceptDue line
    .next (s1.setLine line ({ s1.probes[line] with pin := level }.filterChange s0.now))

/-- FILTER_EXPIRY (R22 row 4). -/
def execFilterExpiry (t : Nat) (line : Fin 16) (s : State) : Result :=
  .next ((s.advance t).acceptDue line)

/-- Every named line is configured, in rising order (R29). -/
def State.configureLines (mask : BitVec 16) (invert : Bool) (filter : Nat) (s : State) : State :=
  allLines.foldl
    (fun x n => if mask.getLsbD n.val then x.setLine n (x.probes[n].configure x.now invert filter) else x) s

/-- The rule of SET PROBE (R28, R29; spec/10 10.3). -/
def setProbe (payload : List Byte) (s : State) : State × Reply :=
  match payload with
  | [m0, m1, options, filter] =>
    if s.seq.plan ≠ .idle then (s, .refuse .planActive)
    else (s.configureLines (BitVec.ofNat 16 (ofLeBytes [m0, m1])) (bitOf options 0) filter.toNat, .okWith [])
  | _ => (s, .refuse .malformed)

/-- SET_PROBE (R28, R29). -/
def execSetProbe (t : Nat) (s : State) : Result := .next ((s.advance t).takeRequest (Frame.isKind .setProbe) setProbe)

/-- The rule of READ PROBES (R30). -/
def readProbes (s : State) : State × Reply :=
  ({ s with probes := Vector.ofFn fun n => { s.probes[n] with mark := false } },
    .okWith (leBytes 2 (ofBits (allLines.map s.levelOf)) ++
      leBytes 2 (ofBits (allLines.map fun n => s.probes[n].mark))))

/-- READ_PROBES (R30). -/
def execReadProbes (t : Nat) (s : State) : Result :=
  .next ((s.advance t).takeRequest (Frame.isKind .readProbes) (noParameters readProbes))

end Sys2Proof.Machine
end

