-- ==== Sys2Proof/Machine/UnitEvents.lean ====
section
/-! DEFINITION. Compactor units at work (spec/03): the receipt of a probe edge, MARK and FEED. -/

namespace Sys2Proof.Machine

/-- A unit has received an edge: it opens, closes, samples, or does nothing (R38 to R45). -/
def State.receive (u : Fin 8) (e : ProbeEdge) (b : Bound) (s : State) : State :=
  match b.edgeEffect s.levelOf e with
  | .nothing => { s with units := s.units.set u (some b) }
  | .opens => { s with units := s.units.set u (some (b.openWindow s.now)) }
  | .closes => { s with units := s.units.set u (some b) }.closeUnit .stop u
  | .samples =>
    let c := b.takeSample (b.sampleOf s.levelOf)
    let s1 := { s with units := s.units.set u (some c) }
    match c.countClose with
    | none => s1
    | some reason => s1.closeUnit reason u

/-- EDGE_RECEIPT: the oldest edge of the line that was delivered to the unit, if it is of this kind (R25, R38,
R39). -/
def execEdgeReceipt (t : Nat) (unit : Fin 8) (line : Fin 16) (kind : EdgeKind) (s : State) : Result :=
  let s0 := s.advance t
  match s0.units[unit].bind (Bound.takeEdge line) with
  | none => .next s0
  | some (e, b) => if e.kind = kind then .next ((s0.receive unit e b).finish s0) else .next s0

/-- The unit accepts a MARK START (R54). -/
def Bound.acceptsStart (b : Bound) : Bool := decide (b.phase = .armed) && decide (b.lane.start = .host)

/-- The unit accepts a MARK STOP (R54). -/
def Bound.acceptsStop (b : Bound) : Bool := decide (b.phase = .opened) && decide (b.lane.stop = .host)

/-- The named units that accept a MARK. -/
def State.accepting (s : State) (mask : Byte) (accepts : Bound → Bool) : List (Fin 8) :=
  allUnits.filter fun u => bitOf mask u.val && s.units[u].any accepts

/-- A list of units as a unit mask. -/
def unitMask (us : List (Fin 8)) : Byte := byteOf (ofBits (allUnits.map fun u => decide (u ∈ us)))

/-- MARK is refused PLAN_IDLE in IDLE and PAUSED (R53). -/
def PlanState.refusesMark (p : PlanState) : Bool := decide (p = .idle) || decide (p = .paused)

/-- The rule of MARK with kind START (R53, R54). -/
def markStart (payload : List Byte) (s : State) : State × Reply :=
  match payload, markKind payload with
  | mask :: _, some 0 =>
    if s.seq.plan.refusesMark then (s, .refuse .planIdle)
    else
      let us := s.accepting mask Bound.acceptsStart
      ({ s with units := Vector.ofFn fun u =>
          if u ∈ us then s.units[u].map (Bound.openWindow s.now) else s.units[u] },
        .okWith [unitMask us])
  | _, _ => (s, .refuse .malformed)

/-- MARK_START (R53, R54). -/
def execMarkStart (t : Nat) (s : State) : Result := .next ((s.advance t).takeRequest Frame.isMarkStart markStart)

/-- The rule of MARK with kind STOP (R53, R54). That every named unit is tested as it stands when the MARK is taken,
before any of them closes, is the model's choice (notes/assumptions/27): a window that the step boundary of one of the
closes opens at another named unit stays OPEN. -/
def markStop (payload : List Byte) (s : State) : State × Reply :=
  match payload, markKind payload with
  | mask :: _, some 1 =>
    if s.seq.plan.refusesMark then (s, .refuse .planIdle)
    else
      let us := s.accepting mask Bound.acceptsStop
      (us.foldl (fun x u => x.closeUnit .stop u) s, .okWith [unitMask us])
  | _, _ => (s, .refuse .malformed)

/-- MARK_STOP (R53, R54). -/
def execMarkStop (t : Nat) (s : State) : Result := .next ((s.advance t).takeRequest Frame.isMarkStop markStop)

/-- A refused FEED: 0 bytes folded and the unit's state (R55). -/
def feedRefusal (st : Status) (unitState : Nat) : Reply :=
  { status := st, detail := 0, data := [0, byteOf unitState], attached := .nothing }

/-- The bound copy that a FEED may fold into: an OPEN unit of a HOST lane (R55 check 4). -/
def Bound.takesBytes (b : Bound) : Bool := decide (b.phase = .opened) && decide (b.lane.mode = .host)

/-- An accepted FEED (R56, R57): its bits are folded, and the window closes on a count, a limit or FINAL. -/
def feedUnit (u : Fin 8) (final : Bool) (bytes : List Byte) (b : Bound) (s : State) : State × Reply :=
  let r := b.feedBits (feedOrder b.profile bytes)
  let s1 := { s with units := s.units.set u (some r.1) }
  let closing : Option CloseReason := if final then some (r.2.2.getD .stop) else r.2.2
  match closing with
  | none => (s1, .okWith [byteOf (r.2.1 / 8), byteOf (unitCode (some r.1))])
  | some reason => (s1.closeUnit reason u, .okWith [byteOf (r.2.1 / 8), 3])

/-- The rule of FEED (R55 to R57). -/
def feed (payload : List Byte) (s : State) : State × Reply :=
  match payload with
  | unit :: options :: bytes =>
    if 232 < bytes.length then (s, .refuse .malformed)
    else if h : unit.toNat < 8 then
      let u : Fin 8 := ⟨unit.toNat, h⟩
      if s.seq.plan ≠ .capturing then (s, feedRefusal .laneState (unitCode s.units[u]))
      else
        match s.units[u] with
        | none => (s, feedRefusal .laneState 0)
        | some b =>
          if b.takesBytes then feedUnit u (bitOf options 0) bytes b s
          else (s, feedRefusal .laneState (unitCode (some b)))
    else (s, feedRefusal .range 0)
  | _ => (s, .refuse .malformed)

/-- FEED (R55 to R57). -/
def execFeed (t : Nat) (s : State) : Result := .next ((s.advance t).takeRequest (Frame.isKind .feed) feed)

end Sys2Proof.Machine
end

