-- ==== Sys2Proof/Machine/Plan.lean ====
section
/-! DEFINITION. The plan's commands (spec/05): timers, RUN, PAUSE, RESUME, ABORT, STATUS and the PLAN reset. -/

namespace Sys2Proof.Machine

/-- A timer held as the instant at which it runs out has run out. -/
def runOut (now : Nat) (timer : Option Nat) : Bool := timer.any fun e => decide (e ≤ now)

/-- SETTLE_END (R85). -/
def execSettleEnd (t : Nat) (s : State) : Result :=
  let s0 := s.advance t
  if s0.seq.plan = .settling ∧ runOut s0.now s0.seq.settleEndAt = true then .next (s0.capture.finish s0) else .next s0

/-- One close of an expiry, a happening of its own (R87): the unit closes, and the happening ends. -/
def State.expiryAt (u : Fin 8) (s : State) : State := (s.expireUnit u).finish s

/-- STEP_TIMER_EXPIRY (R86, spec/03 R49): each ARMED or OPEN unit of the step closes, each close a happening of its own
(R87). That they come in lane order is the model's choice (notes/assumptions/26). -/
def execStepTimerExpiry (t : Nat) (s : State) : Result :=
  let s0 := s.advance t
  if s0.seq.plan = .capturing ∧ runOut s0.now s0.seq.stepTimerAt = true then
    let s1 := { s0 with seq := { s0.seq with stepTimerAt := none } }
    .next (s0.runningUnits.foldl (fun x u => x.expiryAt u) s1)
  else .next s0

/-- An accepted RUN (R82). -/
def State.startRun (first last : Fin 96) (loops : Nat) (n : Fin 96) (s : State) : State :=
  let s1 := { s with seq := { s.seq with
    lastOutcome := none, runFirst := first, runLast := last, loopCount := loops, iteration := 0,
    pausePending := false, runClockFrom := some s.now, step := n, attempt := 0 } }
  s1.startStep

/-- The rule of RUN (R82). -/
def runPlan (payload : List Byte) (s : State) : State × Reply :=
  match payload with
  | [first, last, l0, l1] =>
    if s.seq.plan ≠ .idle then (s, .refuse .planActive)
    else if h : first.toNat ≤ last.toNat ∧ last.toNat < 96 then
      match s.firstDefined first.toNat last.toNat with
      | none => (s, .refuse .noSteps)
      | some n =>
        (s.startRun ⟨first.toNat, Nat.lt_of_le_of_lt h.1 h.2⟩ ⟨last.toNat, h.2⟩ (ofLeBytes [l0, l1]) n,
          .okWith [byteOf n.val])
    else (s, .refuse .range)
  | _ => (s, .refuse .malformed)

/-- RUN (R82). -/
def execRun (t : Nat) (s : State) : Result := .next ((s.advance t).takeRequest (Frame.isKind .run) runPlan)

/-- SETTLING, CAPTURING or HELD: a run in progress and not PAUSED. -/
def PlanState.underWay (p : PlanState) : Bool :=
  decide (p = .settling) || decide (p = .capturing) || decide (p = .held)

/-- The rule of PAUSE (R98). -/
def pausePlan (s : State) : State × Reply :=
  if s.seq.plan = .idle then (s, .refuse .planIdle)
  else if s.seq.plan = .paused then (s, .okWith [])
  else ({ s with seq := { s.seq with pausePending := true } }, .okWith [])

/-- PAUSE (R98). -/
def execPause (t : Nat) (s : State) : Result :=
  .next ((s.advance t).takeRequest (Frame.isKind .pause) (noParameters pausePlan))

/-- The rule of RESUME (R99). -/
def resumePlan (s : State) : State × Reply :=
  if s.seq.plan = .paused then (s.startStep, .okWith [])
  else if s.seq.plan.underWay && s.seq.pausePending then
    ({ s with seq := { s.seq with pausePending := false } }, .okWith [])
  else (s, .refuse .notPaused)

/-- RESUME (R99). -/
def execResume (t : Nat) (s : State) : Result :=
  .next ((s.advance t).takeRequest (Frame.isKind .resume) (noParameters resumePlan))

/-- The rule of ABORT (R100). -/
def abortPlan (s : State) : State × Reply :=
  if s.seq.plan = .idle then (s, .refuse .planIdle) else (s.stopRun.setOutcome .aborted, .okWith [])

/-- ABORT (R100). -/
def execAbort (t : Nat) (s : State) : Result :=
  .next ((s.advance t).takeRequest (Frame.isKind .abort) (noParameters abortPlan))

/-- The rule of STATUS (R102). -/
def statusReport (s : State) : State × Reply := (s, .okWith (statusBytes s))

/-- STATUS (R102). -/
def execStatus (t : Nat) (s : State) : Result :=
  .next ((s.advance t).takeRequest (Frame.isKind .status) (noParameters statusReport))

/-- The rule of RESET with scope PLAN, and of a RESET that is refused (R106, spec/09 R165). -/
def resetPlan (payload : List Byte) (s : State) : State × Reply :=
  match payload with
  | [scope] => if scope = 0 then (s.planReset, .okWith []) else (s, .refuse .range)
  | _ => (s, .refuse .malformed)

/-- RESET_PLAN (R106, spec/09 R165). -/
def execResetPlan (t : Nat) (s : State) : Result := .next ((s.advance t).takeRequest Frame.isResetPlan resetPlan)

end Sys2Proof.Machine
end

