-- ==== Sys2Proof/Machine/Tables.lean ====
section
/-! DEFINITION. The requests on the Profile Table and the Step Table (spec/01 1.9, spec/04 4.4, 4.5). -/

namespace Sys2Proof.Machine

/-- Slot `n` of the host slots takes contents. -/
def State.setProfile (n : Fin 16) (p : Option Profile) (s : State) : State :=
  if h : n.val < 14 then { s with profiles := s.profiles.set n.val p } else s

/-- A slot number of a profile request: RANGE above 15 (spec/01 R12). -/
def withSlot (b : Byte) (s : State) (own : Fin 16 → State × Reply) : State × Reply :=
  if h : b.toNat < 16 then own ⟨b.toNat, h⟩ else (s, .refuse .range)

/-- The rule of DEFINE PROFILE (spec/01 R12, R14). -/
def defineProfile (payload : List Byte) (s : State) : State × Reply :=
  match payload with
  | [b, w, p0, p1, p2, p3, s0, s1, s2, s3, m0, m1, m2, m3, dir, order] =>
    withSlot b s fun slot =>
      if 14 ≤ slot.val then (s, .refuse .profileFixed)
      else
        match checkProfile w.toNat (ofLeBytes [p0, p1, p2, p3]) (ofLeBytes [s0, s1, s2, s3])
            (ofLeBytes [m0, m1, m2, m3]) dir.toNat order.toNat with
        | .error d => (s, { Reply.refuse .range with detail := d })
        | .ok p => if s.inUse slot then (s, .refuse .profileInUse) else (s.setProfile slot (some p), .okWith [])
  | _ => (s, .refuse .malformed)

/-- DEFINE_PROFILE (spec/01 R14). -/
def execDefineProfile (t : Nat) (s : State) : Result :=
  .next ((s.advance t).takeRequest (Frame.isKind .defineProfile) defineProfile)

/-- The rule of READ PROFILE (spec/01 R15). -/
def readProfile (payload : List Byte) (s : State) : State × Reply :=
  match payload with
  | [b] =>
    withSlot b s fun slot =>
      match s.profileAt slot with
      | none => (s, .refuse .profileEmpty)
      | some p => (s, .okWith (profileBytes slot p))
  | _ => (s, .refuse .malformed)

/-- READ_PROFILE (spec/01 R15). -/
def execReadProfile (t : Nat) (s : State) : Result :=
  .next ((s.advance t).takeRequest (Frame.isKind .readProfile) readProfile)

/-- The rule of ERASE PROFILE (spec/01 R16). -/
def eraseProfile (payload : List Byte) (s : State) : State × Reply :=
  match payload with
  | [b] =>
    withSlot b s fun slot =>
      if 14 ≤ slot.val then (s, .refuse .profileFixed)
      else if s.inUse slot then (s, .refuse .profileInUse)
      else (s.setProfile slot none, { Reply.okWith [] with detail := ofBit (s.profileAt slot).isSome })
  | _ => (s, .refuse .malformed)

/-- ERASE_PROFILE (spec/01 R16). -/
def execEraseProfile (t : Nat) (s : State) : Result :=
  .next ((s.advance t).takeRequest (Frame.isKind .eraseProfile) eraseProfile)

/-- The rule of COMPUTE (spec/01 R17). -/
def computeSignature (payload : List Byte) (s : State) : State × Reply :=
  match payload with
  | b :: bytes =>
    if bytes.isEmpty || decide (240 < bytes.length) then (s, .refuse .malformed)
    else
      withSlot b s fun slot =>
        match s.profileAt slot with
        | none => (s, .refuse .profileEmpty)
        | some p => (s, .okWith (byteOf p.width :: leBytes 4 (signatureOf p bytes).toNat))
  | [] => (s, .refuse .malformed)

/-- COMPUTE (spec/01 R17). -/
def execCompute (t : Nat) (s : State) : Result :=
  .next ((s.advance t).takeRequest (Frame.isKind .compute) computeSignature)

/-- The rule of DEFINE STEP (spec/04 R70 to R74). -/
def defineStep (payload : List Byte) (s : State) : State × Reply :=
  match readStepPayload payload with
  | none => (s, .refuse .malformed)
  | some raw =>
    if s.seq.plan ≠ .idle then (s, .refuse .planActive)
    else
      match checkStep s.widthAt raw with
      | .error e => (s, { Reply.refuse e.1 with detail := e.2 })
      | .ok r => ({ s with steps := s.steps.set r.number (some r) }, .okWith [])

/-- DEFINE_STEP (spec/04 R70). -/
def execDefineStep (t : Nat) (s : State) : Result :=
  .next ((s.advance t).takeRequest (Frame.isKind .defineStep) defineStep)

/-- The rule of READ STEP (spec/04 R75). -/
def readStep (payload : List Byte) (s : State) : State × Reply :=
  match payload with
  | [b] =>
    if h : b.toNat < 96 then
      match s.steps[b.toNat] with
      | none => (s, .refuse .stepEmpty)
      | some r => (s, .okWith (stepBytes r))
    else (s, .refuse .range)
  | _ => (s, .refuse .malformed)

/-- READ_STEP (spec/04 R75). -/
def execReadStep (t : Nat) (s : State) : Result := .next ((s.advance t).takeRequest (Frame.isKind .readStep) readStep)

/-- A step number lies in a range, both ends included. -/
def inRange (first last n : Nat) : Bool := decide (first ≤ n) && decide (n ≤ last)

/-- How many slots of a range hold a record. -/
def State.definedIn (s : State) (first last : Nat) : Nat :=
  ((List.finRange 96).filter fun n => inRange first last n.val && s.steps[n].isSome).length

/-- A refused ERASE STEPS, which carries a count of 0 (spec/04 R76). -/
def eraseRefusal (st : Status) : Reply := { Reply.refuse st with data := [0] }

/-- The rule of ERASE STEPS (spec/04 R76). -/
def eraseSteps (payload : List Byte) (s : State) : State × Reply :=
  match payload with
  | [first, last] =>
    if s.seq.plan ≠ .idle then (s, eraseRefusal .planActive)
    else if last.toNat < first.toNat ∨ 95 < last.toNat then (s, eraseRefusal .range)
    else
      ({ s with steps := Vector.ofFn fun n => if inRange first.toNat last.toNat n.val then none else s.steps[n] },
        .okWith [byteOf (s.definedIn first.toNat last.toNat)])
  | _ => (s, .refuse .malformed)

/-- ERASE_STEPS (spec/04 R76). -/
def execEraseSteps (t : Nat) (s : State) : Result :=
  .next ((s.advance t).takeRequest (Frame.isKind .eraseSteps) eraseSteps)

end Sys2Proof.Machine
end

