-- ==== Sys2Proof/Machine/Results.lean ====
section
/-! DEFINITION. The requests on the Result Queue (spec/06 6.5, 6.6). -/

namespace Sys2Proof.Machine

/-- The records a READ RESULTS returns: at most `most`, from the record of distance `d` on (R119). -/
def ResultQueue.readFrom (q : ResultQueue) (d most : Nat) : List ResultRecord :=
  (q.records.drop (q.records.length - 1 - d)).take most

/-- The reply to an accepted READ RESULTS (R119, spec/10 10.6 note 2). -/
def resultsReply (q : ResultQueue) (rs : List ResultRecord) : Reply :=
  .okWith (byteOf rs.length :: byteOf q.records.length :: recordBytes rs)

/-- READ RESULTS after its length test, with its start sequence if one is present (R118, R119). -/
def readFrom (most : Nat) (start : Option (BitVec 16)) (s : State) : State × Reply :=
  if most < 1 ∨ 7 < most then (s, .refuse .range)
  else
    match start with
    | none => (s, resultsReply s.queue (s.queue.records.take most))
    | some x =>
      if s.queue.distance x < s.queue.records.length then
        (s, resultsReply s.queue (s.queue.readFrom (s.queue.distance x) most))
      else (s, .refuse .seqAbsent)

/-- The rule of READ RESULTS (R118, R119). -/
def readResults (payload : List Byte) (s : State) : State × Reply :=
  match payload with
  | [most] => readFrom most.toNat none s
  | [most, x0, x1] => readFrom most.toNat (some (BitVec.ofNat 16 (ofLeBytes [x0, x1]))) s
  | _ => (s, .refuse .malformed)

/-- READ_RESULTS (R118, R119). -/
def execReadResults (t : Nat) (s : State) : Result :=
  .next ((s.advance t).takeRequest (Frame.isKind .readResults) readResults)

/-- The `n` oldest records leave the queue (R121). -/
def ResultQueue.remove (q : ResultQueue) (n : Nat) : ResultQueue := { q with records := q.records.drop n }

/-- The rule of ACK RESULTS (R120, R121). -/
def ackResults (payload : List Byte) (s : State) : State × Reply :=
  match payload with
  | [x0, x1] =>
    let d := s.queue.distance (BitVec.ofNat 16 (ofLeBytes [x0, x1]))
    if d < s.queue.records.length then
      let n := s.queue.records.length - d
      ({ s with queue := s.queue.remove n }.askAgain, .okWith [byteOf n])
    else if d < 32768 then (s, .okWith [0])
    else (s, .refuse .seqAhead)
  | _ => (s, .refuse .malformed)

/-- ACK_RESULTS (R120, R121). -/
def execAckResults (t : Nat) (s : State) : Result :=
  .next ((s.advance t).takeRequest (Frame.isKind .ackResults) ackResults)

end Sys2Proof.Machine
end

