-- ==== Sys2Proof/Machine/FlagLines.lean ====
section
/-! DEFINITION. The commands of the flag lines (spec/07): target changes, hold and pulse ends, SET FLAG and
DRIVE FLAGS. -/

namespace Sys2Proof.Machine

/-- TARGET_CHANGE (R126, R129). -/
def execTargetChange (t : Nat) (flag : Fin 4) (s : State) : Result :=
  let s0 := s.advance t
  .next { s0 with flags := s0.flags.set flag (s0.flags[flag].takeChange s0.now) }

/-- HOLD_END (R129). -/
def execHoldEnd (t : Nat) (flag : Fin 4) (s : State) : Result :=
  let s0 := s.advance t
  .next { s0 with flags := s0.flags.set flag (s0.flags[flag].endHold s0.now) }

/-- PULSE_END (R128, R129). -/
def execPulseEnd (t : Nat) (flag : Fin 4) (s : State) : Result :=
  let s0 := s.advance t
  .next { s0 with flags := s0.flags.set flag (s0.endPulse s0.flags[flag]) }

/-- One named line takes the settings of a SET FLAG (R131 steps 1 to 4). With its source unchanged the line goes on
showing that source, and changes of it that wait are handled after the SET FLAG. On a PATTERN line in IDLE the SET FLAG
sets the pattern level too, and the changes that wait are handled before it. With another source the line takes the
source value it now has. The order against changes that wait is the model's choice (notes/assumptions/23). -/
def State.setFlagLine (src : FlagSource) (invert : Bool) (w : Nat) (rest : Bool) (s : State) (f : FlagLine) :
    FlagLine :=
  let settings (x : FlagLine) : FlagLine := { x with
    source := src, width := w, restLevel := rest,
    patternLevel := if s.seq.plan = .idle then rest else f.patternLevel,
    pulseEnd := if f.source = src then f.pulseEnd else none }
  if f.source = src then
    if src = .pattern ∧ s.seq.plan = .idle then s.settleFlag { settings (f.takeAll s.now) with invert := invert }
    else FlagLine.stretch s.now ((settings f).reinvert invert)
  else s.settleFlag { settings f with invert := invert }

/-- The rule of SET FLAG (R131; spec/10 10.3 note 3). -/
def setFlag (payload : List Byte) (s : State) : State × Reply :=
  match payload with
  | [mask, source, options, w0, w1] =>
    match flagSourceOf source.toNat with
    | none => (s, .refuse .range)
    | some src =>
      ({ s with flags := Vector.ofFn fun n =>
          if bitOf mask n.val then
            s.setFlagLine src (bitOf options 0) (ofLeBytes [w0, w1]) (bitOf options 1) s.flags[n]
          else s.flags[n] },
        .okWith [])
  | _ => (s, .refuse .malformed)

/-- SET_FLAG (R131). -/
def execSetFlag (t : Nat) (s : State) : Result := .next ((s.advance t).takeRequest (Frame.isKind .setFlag) setFlag)

/-- One named line takes a host level; a line of source HOST takes its new target (R132). -/
def State.driveLine (v : Bool) (s : State) (f : FlagLine) : FlagLine :=
  if f.source = .host then s.settleFlag { f with hostLevel := v } else { f with hostLevel := v }

/-- The rule of DRIVE FLAGS (R132). -/
def driveFlags (payload : List Byte) (s : State) : State × Reply :=
  match payload with
  | [mask, levels] =>
    ({ s with flags := Vector.ofFn fun n =>
        if bitOf mask n.val then s.driveLine (bitOf levels n.val) s.flags[n] else s.flags[n] },
      .okWith [])
  | _ => (s, .refuse .malformed)

/-- DRIVE_FLAGS (R132). -/
def execDriveFlags (t : Nat) (s : State) : Result :=
  .next ((s.advance t).takeRequest (Frame.isKind .driveFlags) driveFlags)

end Sys2Proof.Machine
end

