-- ==== Sys2Proof/Machine/Link.lean ====
section
/-! DEFINITION. The Link Receiver and Link Transmitter at work (spec/08). -/

namespace Sys2Proof.Machine

/-! ### Frame assembly (8.3) -/

/-- A link fault: the receiver is in HUNT and a LINK notice is raised (R145, R146). -/
def State.linkFault (reason : LinkReason) (s : State) : State :=
  { s with rx := { s.rx with state := .hunt, gapFrom := none } }.raiseLink reason

/-- The receiver moves to a state inside a frame; the gap timer starts at this character (R143). -/
def State.rxTo (x : RxState) (s : State) : State := { s with rx := { s.rx with state := x, gapFrom := some s.now } }

/-- The receiver returns to HUNT, its gap timer stopped. -/
def State.rxHunt (s : State) : State := { s with rx := { s.rx with state := .hunt, gapFrom := none } }

/-- An OVERRUN refusal (R148). -/
def refusalFor (f : Frame) : QueuedReply :=
  { frame := mkFrame f.tag (f.kind + 0x80) (Reply.refuse .overrun).payload, role := .refusal, attached := .nothing }

/-- A checked request frame joins the request queue, or is refused or dropped for want of room (R147, R148). -/
def State.handRequest (f : Frame) (s : State) : State :=
  if s.interp.requests.length < Config.requestCapacity then
    { s with interp := { s.interp with requests := s.interp.requests ++ [f] } }
  else if s.refusalsWaiting < Config.refusalPlaces then
    { s with tx := { s.tx with queue := s.tx.queue ++ [refusalFor f] } }
  else s

/-- The second check byte ends the frame (R142). -/
def State.endFrame (h : Header) (payload : List Byte) (crc : Word32) (b0 b1 : Byte) (s : State) : State :=
  if ofLeBytes [b0, b1] ≠ (checkOf crc).toNat then s.linkFault .check
  else if h.kind.toNat = 0 ∨ 0x40 ≤ h.kind.toNat then s.linkFault .unexpected
  else s.rxHunt.handRequest { tag := h.tag, kind := h.kind, ctrl := h.ctrl, payload := payload }

/-- A header byte (R140). -/
def State.takeHeader (got : List Byte) (crc : Word32) (b : Byte) (s : State) : State :=
  let crc' := foldByte fixed14 crc b
  match got with
  | [] => if Config.payloadLimit < b.toNat then s.linkFault .length else s.rxTo (.header [b] crc')
  | [len, tag, kind] =>
    let h : Header := { len := len.toNat, tag := tag, kind := kind, ctrl := b }
    if h.len = 0 then s.rxTo (.check h [] crc' none) else s.rxTo (.body h [] crc')
  | _ => s.rxTo (.header (got ++ [b]) crc')

/-- A payload byte (R141). -/
def State.takeBody (h : Header) (payload : List Byte) (crc : Word32) (b : Byte) (s : State) : State :=
  let crc' := foldByte fixed14 crc b
  let payload' := payload ++ [b]
  if h.len ≤ payload'.length then s.rxTo (.check h payload' crc' none) else s.rxTo (.body h payload' crc')

/-- A received byte is handed to frame assembly (R139 to R142). -/
def State.assemble (b : Byte) (s : State) : State :=
  match s.rx.state with
  | .hunt => if b = 0xC5 then s.rxTo (.header [] fixed14.seed) else s
  | .header got crc => s.takeHeader got crc b
  | .body h payload crc => s.takeBody h payload crc b
  | .check h payload crc none => s.rxTo (.check h payload crc (some b))
  | .check h payload crc (some b0) => s.endFrame h payload crc b0 b

/-! ### Commands on RXD -/

/-- A low level in which no falling edge can come: RXD has not returned high (R144, R150, R155). -/
def LowLevel.lasts : LowLevel → Bool
  | .untimed => false
  | .watched _ => true
  | .timed _ => true
  | .dropped _ => false
  | .afterBreak => true

/-- A falling edge says that RXD had returned high: the low of a dropped character has ended (notes/assumptions/28). -/
def LowLevel.afterEdge : LowLevel → LowLevel
  | .untimed => .untimed
  | .watched since => .watched since
  | .timed since => .timed since
  | .dropped _ => .untimed
  | .afterBreak => .afterBreak

/-- START_BIT (R137, R143): a real start bit begins a character and stops the gap timer; a glitch begins none. -/
def execStartBit (t : Nat) (glitch : Bool) (s : State) : Result :=
  let s0 := s.advance t
  if s0.nResetLow || s0.rx.character.isSome || s0.rx.low.lasts then .next s0
  else
    let rx := { s0.rx with low := s0.rx.low.afterEdge }
    if glitch then .next { s0 with rx := rx }
    else .next { s0 with rx := { rx with character := some { rate := rx.rate, since := s0.now }, gapFrom := none } }

/-- CHARACTER (R137, 8.3): the byte of the character in reception is handed to frame assembly. -/
def execCharacter (t : Nat) (byte : Byte) (s : State) : Result :=
  let s0 := s.advance t
  match s0.rx.character with
  | none => .next s0
  | some _ => .next (({ s0 with rx := { s0.rx with character := none } }.assemble byte).finish s0)

/-- LOW_STOP_BIT (R144): the character hands no byte on, the partial frame is discarded without a fault, and the
low is watched from the instant it began. -/
def execLowStopBit (t : Nat) (since : Nat) (s : State) : Result :=
  let s0 := s.advance t
  match s0.rx.character with
  | none => .next s0
  | some _ =>
    .next { s0 with rx := { s0.rx with
      state := .hunt, gapFrom := none, character := none, low := .watched (min since s0.now) } }

/-- The length of a break, 10 ms (R150). -/
def breakTime : Nat := millis 10

/-- FRAMING (R144): RXD returns high before the watched low has lasted 10 ms. -/
def execFraming (t : Nat) (s : State) : Result :=
  let s0 := s.advance t
  match s0.rx.low with
  | .watched since =>
    if s0.now < since + breakTime then
      .next (({ s0 with rx := { s0.rx with low := .untimed } }.raiseLink .framing).finish s0)
    else .next s0
  | .untimed => .next s0
  | .timed _ => .next s0
  | .dropped _ => .next s0
  | .afterBreak => .next s0

/-- RXD_RETURN_HIGH (R150, R155): the wait after a break, a low timed from a reset, or the low of a dropped character
ends without a fault. -/
def execRxdReturnHigh (t : Nat) (s : State) : Result :=
  let s0 := s.advance t
  match s0.rx.low with
  | .afterBreak => .next { s0 with rx := { s0.rx with low := .untimed } }
  | .dropped _ => .next { s0 with rx := { s0.rx with low := .untimed } }
  | .timed since => if s0.now < since + breakTime then .next { s0 with rx := { s0.rx with low := .untimed } } else .next s0
  | .watched _ => .next s0
  | .untimed => .next s0

/-- The gap timer has reached the gap limit (R143). -/
def State.gapReached (s : State) : Bool := s.rx.gapFrom.any fun g => decide (g + millis s.rx.gapLimit ≤ s.now)

/-- GAP (R143). -/
def execGap (t : Nat) (s : State) : Result :=
  let s0 := s.advance t
  if s0.gapReached && decide (s0.rx.state ≠ .hunt) then .next ((s0.linkFault .gap).finish s0) else .next s0

/-- Link recovery (R151 steps 1 to 7); the frame cut off leaves TXD free at the end of its character. -/
def State.recoverLink (s : State) : State :=
  { s with
    rx := { state := .hunt, rate := .b115200, gapLimit := 25, gapFrom := none, character := none, low := .afterBreak }
    interp := { s.interp with requests := [], cache := [] }
    tx := { s.tx with
      queue := [], inFlight := none,
      freeAt := (s.tx.inFlight.map (InFlight.characterEnd s.now)).getD s.tx.freeAt } }.raiseLink .recovery

/-- A break: link recovery, then a FULL reset whose reply it discarded or cut off (R151, R152, spec/09 R166). -/
def State.takeBreak (s : State) : State :=
  if s.interp.resetPending then s.recoverLink.fullReset else s.recoverLink

/-- The instant from which a low that may become a break is timed (R150). -/
def LowLevel.since : LowLevel → Option Nat
  | .watched t => some t
  | .timed t => some t
  | .dropped t => some t
  | .afterBreak => none
  | .untimed => none

/-- The instant from which the receiver itself times a low, RXD being low for certain. Whether RXD is low where a
character was dropped the sender alone knows (notes/assumptions/28). -/
def LowLevel.timedFrom : LowLevel → Option Nat
  | .watched t => some t
  | .timed t => some t
  | .dropped _ => none
  | .afterBreak => none
  | .untimed => none

/-- BREAK (R150, R151). -/
def execBrk (t : Nat) (s : State) : Result :=
  let s0 := s.advance t
  if s0.rx.low.since.any fun e => decide (e + breakTime ≤ s0.now) then .next s0.takeBreak.arbitrate else .next s0

/-! ### The end of a frame on TXD -/

/-- The low level that is followed after a rate switch: the one followed before, or the one that a dropped character
may have begun, from its falling edge on (R150, R154, notes/assumptions/28). -/
def Receiver.lowAfterDrop (r : Receiver) : LowLevel :=
  match r.low, r.character with
  | .untimed, some c => .dropped c.since
  | l, _ => l

/-- A rate switch (R154). -/
def State.switchRate (r : LinkRate) (s : State) : State :=
  if r = s.rx.rate then s
  else { s with rx := { s.rx with
    state := .hunt, rate := r, gapFrom := none, character := none, low := s.rx.lowAfterDrop } }

/-- What the last byte of a frame brings about (R154, spec/09 R166). -/
def State.applyAttached (a : Attached) (s : State) : State :=
  match a with
  | .nothing => s
  | .rateSwitch r => s.switchRate r
  | .fullReset => s.fullReset

/-- FRAME_SENT (R149): the last byte leaves, what is attached comes about, and the arbiter chooses (R172). -/
def execFrameSent (t : Nat) (s : State) : Result :=
  let s0 := s.advance t
  match s0.tx.inFlight with
  | none => .next s0
  | some f =>
    if f.endAt ≤ s0.now then
      .next ({ s0 with tx := { s0.tx with inFlight := none } }.applyAttached f.attached).arbitrate
    else .next s0

end Sys2Proof.Machine
end

