-- ==== Sys2Proof/Machine/General.lean ====
section
/-! DEFINITION. The general requests (spec/09 9.5, 9.6) and SET LINK (spec/08 R153). -/

namespace Sys2Proof.Machine

/-- The rule of a KIND that names no request (R158 step 2). -/
def unknownKind (_payload : List Byte) (s : State) : State × Reply := (s, .refuse .unknownKind)

/-- UNKNOWN_KIND (R158). -/
def execUnknownKind (t : Nat) (s : State) : Result := .next ((s.advance t).takeRequest Frame.isUnknown unknownKind)

/-- The data of the HELLO reply: version 1, part code 0x1608 and the eight capacities (R163, spec/10 10.3). -/
def helloBytes : List Byte := [1] ++ leBytes 2 0x1608 ++ [16, 8, 16, 96, 64, 4, 8, 248]

/-- The rule of HELLO (R163). -/
def helloReply (s : State) : State × Reply := (s, .okWith helloBytes)

/-- HELLO (R163). -/
def execHello (t : Nat) (s : State) : Result :=
  .next ((s.advance t).takeRequest (Frame.isKind .hello) (noParameters helloReply))

/-- The notice mask as a byte (spec/10 10.3 note 3). -/
def maskByte (m : NoticeMask) : Byte := byteOf (ofBits [m.link, m.plan, m.results])

/-- The notice mask takes values, and pending notices of kinds now masked are removed (R164). -/
def State.setMask (m : NoticeMask) (s : State) : State :=
  { s with
    interp := { s.interp with mask := m }
    tx := { s.tx with
      link := if m.link then s.tx.link else none
      plan := if m.plan then s.tx.plan else none
      results := if m.results then s.tx.results else none } }

/-- The rule of SET NOTICES (R164). -/
def setNotices (payload : List Byte) (s : State) : State × Reply :=
  match payload with
  | [b] =>
    let m : NoticeMask := { link := bitOf b 0, plan := bitOf b 1, results := bitOf b 2 }
    (s.setMask m, .okWith [maskByte m])
  | _ => (s, .refuse .malformed)

/-- SET_NOTICES (R164). -/
def execSetNotices (t : Nat) (s : State) : Result :=
  .next ((s.advance t).takeRequest (Frame.isKind .setNotices) setNotices)

/-- The rule of RESET with scope FULL, and of a RESET that is refused (R165, R166). -/
def resetFull (payload : List Byte) (s : State) : State × Reply :=
  match payload with
  | [scope] =>
    if scope = 1 then
      ({ s with interp := { s.interp with resetPending := true } }, { Reply.okWith [] with attached := .fullReset })
    else (s, .refuse .range)
  | _ => (s, .refuse .malformed)

/-- RESET_FULL (R166). -/
def execResetFull (t : Nat) (s : State) : Result := .next ((s.advance t).takeRequest Frame.isResetFull resetFull)

/-- The rule of SET LINK (spec/08 R153). -/
def setLink (payload : List Byte) (s : State) : State × Reply :=
  match payload with
  | [r0, r1, r2, r3, gap] =>
    match LinkRate.ofBaud (ofLeBytes [r0, r1, r2, r3]) with
    | none => (s, .refuse .range)
    | some r =>
      if gap.toNat < 1 ∨ 250 < gap.toNat then (s, .refuse .range)
      else
        ({ s with rx := { s.rx with gapLimit := gap.toNat } }, { Reply.okWith [] with attached := .rateSwitch r })
  | _ => (s, .refuse .malformed)

/-- SET_LINK (spec/08 R153). -/
def execSetLink (t : Nat) (s : State) : Result := .next ((s.advance t).takeRequest (Frame.isKind .setLink) setLink)

end Sys2Proof.Machine
end

