-- ==== Sys2Proof/Machine/Own.lean ====
section
/-! DEFINITION. The block's own happenings: what it does unasked, each with the instant from which it is due
(notes/assumptions/2). -/

namespace Sys2Proof.Machine

/-- A happening of the block's own, with the instant from which it is due. -/
abbrev Due := Nat × (Nat → Instr)

/-- The row of the table that a frame at the front of the request queue is (spec/09 R158). A refused RESET or MARK
counts as RESET_PLAN or MARK_START (notes/assumptions/8). -/
def rowOf (f : Frame) : Nat → Instr :=
  match ReqKind.ofCode f.kind with
  | none => .unknownKind
  | some .hello => .hello
  | some .status => .status
  | some .setNotices => .setNotices
  | some .reset => if f.isResetPlan then .resetPlan else .resetFull
  | some .setLink => .setLink
  | some .defineStep => .defineStep
  | some .readStep => .readStep
  | some .eraseSteps => .eraseSteps
  | some .readResults => .readResults
  | some .ackResults => .ackResults
  | some .defineProfile => .defineProfile
  | some .readProfile => .readProfile
  | some .eraseProfile => .eraseProfile
  | some .compute => .compute
  | some .setProbe => .setProbe
  | some .readProbes => .readProbes
  | some .run => .run
  | some .pause => .pause
  | some .resume => .resume
  | some .abort => .abort
  | some .mark => if f.isMarkStart then .markStart else .markStop
  | some .feed => .feed
  | some .setFlag => .setFlag
  | some .driveFlags => .driveFlags

/-- The receipts a unit owes: the oldest edge of each line delivered to it (spec/02 R25). -/
def dueReceipts (s : State) : List Due :=
  allUnits.flatMap fun u =>
    match s.units[u] with
    | none => []
    | some b => allLines.filterMap fun n => (b.takeEdge n).map fun x => (s.now, fun t => .edgeReceipt t u n x.1.kind)

/-- The filter times that run (spec/02 R22). -/
def dueFilters (s : State) : List Due :=
  allLines.filterMap fun n =>
    match s.probes[n].state with
    | .steady => none
    | .pending start => some (start + micros s.probes[n].filter, fun t => .filterExpiry t n)

/-- The target changes, hold ends and pulse ends of the flag lines (spec/07 R126, R128, R129). -/
def dueFlags (s : State) : List Due :=
  allFlags.flatMap fun n =>
    (if s.flags[n].changes = [] then [] else [(s.now, fun t => Instr.targetChange t n)]) ++
    (s.flags[n].holdEnd.map fun h => (h, fun t => Instr.holdEnd t n)).toList ++
    (s.flags[n].pulseEnd.map fun e => (e, fun t => Instr.pulseEnd t n)).toList

/-- The timers of the sequencer (spec/05 R85, R86). -/
def duePlan (s : State) : List Due :=
  (if s.seq.plan = .settling then (s.seq.settleEndAt.map fun e => (e, Instr.settleEnd)).toList else []) ++
  (if s.seq.plan = .capturing then (s.seq.stepTimerAt.map fun e => (e, Instr.stepTimerExpiry)).toList else [])

/-- The gap timer, the timing of a break, and the frame in flight (spec/08 R143, R149, R150). -/
def dueLink (s : State) : List Due :=
  (if s.rx.state = .hunt then [] else (s.rx.gapFrom.map fun g => (g + millis s.rx.gapLimit, Instr.gap)).toList) ++
  (s.rx.low.timedFrom.map fun e => (e + breakTime, Instr.brk)).toList ++
  (s.tx.inFlight.map fun f => (f.endAt, Instr.frameSent)).toList

/-- The request that can be taken (spec/09 R156). -/
def dueTaking (s : State) : List Due :=
  match s.interp.requests with
  | [] => []
  | f :: _ => if s.mayTake then [(s.now, rowOf f)] else []

/-- Everything the block does on its own from this state on. -/
def State.ownHappenings (s : State) : List Due :=
  dueReceipts s ++ dueFlags s ++ dueTaking s ++ duePlan s ++ dueFilters s ++ dueLink s

/-- The instant a happening comes at: when it is due, or now if that is past. -/
def dueAt (now : Nat) (d : Due) : Nat := max now d.1

/-- The earliest instant among happenings. -/
def earliest (now : Nat) : List Due → Option Nat
  | [] => none
  | d :: ds =>
    match earliest now ds with
    | none => some (dueAt now d)
    | some t => some (min (dueAt now d) t)

/-- The happenings that come first, each as a command. -/
def State.firstOwn (s : State) : List Instr :=
  match earliest s.now s.ownHappenings with
  | none => []
  | some t => (s.ownHappenings.filter fun d => decide (dueAt s.now d = t)).map fun d => d.2 t

/-- The own happening that the block does next: the only one that comes first, or the one the free value picks
among several (notes/assumptions/3). -/
def State.nextOwn (s : State) : Option Instr :=
  match s.firstOwn with
  | [] => none
  | [c] => some c
  | c :: c' :: cs => (c :: c' :: cs)[Config.tieBreak s.choices % (cs.length + 2)]?

end Sys2Proof.Machine
end

