-- ==== Sys2Proof/Machine/Dispatch.lean ====
section
/-! DEFINITION. One arm for each command: its meaning. -/

namespace Sys2Proof.Machine

def exec (i : Instr) (s : State) : Host.Outcome State Fault Refusal :=
  match i with
  | .powerOn t pins rxdLow => Sys2Proof.Machine.execPowerOn t pins rxdLow s
  | .resetLineAssert t => Sys2Proof.Machine.execResetLineAssert t s
  | .resetLine t rxdLow => Sys2Proof.Machine.execResetLine t rxdLow s
  | .pinChange t line level => Sys2Proof.Machine.execPinChange t line level s
  | .filterExpiry t line => Sys2Proof.Machine.execFilterExpiry t line s
  | .edgeReceipt t unit line kind => Sys2Proof.Machine.execEdgeReceipt t unit line kind s
  | .settleEnd t => Sys2Proof.Machine.execSettleEnd t s
  | .stepTimerExpiry t => Sys2Proof.Machine.execStepTimerExpiry t s
  | .targetChange t flag => Sys2Proof.Machine.execTargetChange t flag s
  | .holdEnd t flag => Sys2Proof.Machine.execHoldEnd t flag s
  | .pulseEnd t flag => Sys2Proof.Machine.execPulseEnd t flag s
  | .character t byte => Sys2Proof.Machine.execCharacter t byte s
  | .lowStopBit t since => Sys2Proof.Machine.execLowStopBit t since s
  | .framing t => Sys2Proof.Machine.execFraming t s
  | .gap t => Sys2Proof.Machine.execGap t s
  | .brk t => Sys2Proof.Machine.execBrk t s
  | .frameSent t => Sys2Proof.Machine.execFrameSent t s
  | .unknownKind t => Sys2Proof.Machine.execUnknownKind t s
  | .hello t => Sys2Proof.Machine.execHello t s
  | .status t => Sys2Proof.Machine.execStatus t s
  | .setNotices t => Sys2Proof.Machine.execSetNotices t s
  | .resetPlan t => Sys2Proof.Machine.execResetPlan t s
  | .resetFull t => Sys2Proof.Machine.execResetFull t s
  | .setLink t => Sys2Proof.Machine.execSetLink t s
  | .defineStep t => Sys2Proof.Machine.execDefineStep t s
  | .readStep t => Sys2Proof.Machine.execReadStep t s
  | .eraseSteps t => Sys2Proof.Machine.execEraseSteps t s
  | .readResults t => Sys2Proof.Machine.execReadResults t s
  | .ackResults t => Sys2Proof.Machine.execAckResults t s
  | .defineProfile t => Sys2Proof.Machine.execDefineProfile t s
  | .readProfile t => Sys2Proof.Machine.execReadProfile t s
  | .eraseProfile t => Sys2Proof.Machine.execEraseProfile t s
  | .compute t => Sys2Proof.Machine.execCompute t s
  | .setProbe t => Sys2Proof.Machine.execSetProbe t s
  | .readProbes t => Sys2Proof.Machine.execReadProbes t s
  | .run t => Sys2Proof.Machine.execRun t s
  | .pause t => Sys2Proof.Machine.execPause t s
  | .resume t => Sys2Proof.Machine.execResume t s
  | .abort t => Sys2Proof.Machine.execAbort t s
  | .markStart t => Sys2Proof.Machine.execMarkStart t s
  | .markStop t => Sys2Proof.Machine.execMarkStop t s
  | .feed t => Sys2Proof.Machine.execFeed t s
  | .setFlag t => Sys2Proof.Machine.execSetFlag t s
  | .driveFlags t => Sys2Proof.Machine.execDriveFlags t s
  | .startBit t glitch => Sys2Proof.Machine.execStartBit t glitch s
  | .rxdReturnHigh t => Sys2Proof.Machine.execRxdReturnHigh t s

end Sys2Proof.Machine
end

