-- ==== Sys2Proof/Machine/Step.lean ====
section
/-! DEFINITION. One step: the command at the front of the queue, or, on an empty queue, the block's own next
happening. -/

namespace Sys2Proof.Machine

/-- A step of the part. With a command in front, that command on the state with the queue's rest. With none, the
block's own next happening, one more free choice counted; with none due either, the block idles
(notes/assumptions/2). -/
def step (s : State) : Host.Outcome State Fault Refusal :=
  match s.pending with
  | c :: rest => exec c { s with pending := rest }
  | [] =>
    match s.nextOwn with
    | some c => exec c { s with choices := s.choices + 1 }
    | none => .next s

/-- The command that a word spells, put in front of the queue; no word spells one (notes/assumptions/20). -/
def State.withFetchWord (s : State) (nbits w : Nat) : State :=
  match decodeTableWord nbits w with
  | none => s
  | some c => { s with pending := c :: s.pending }

end Sys2Proof.Machine
end

