-- ==== Sys2Proof/WellFormed.lean ====
section
/-! DEFINITION. When a profile record, a lane, a step record and a command are well formed. The first three
are the laws of spec/01 R2 and spec/04 R60 to R67, R71 to R73, said of the records as held. -/

namespace Sys2Proof

/-- A number of `w` bits (spec/01 1.1 note 1). -/
def Word32.fits (w : Nat) (x : Word32) : Bool := decide (x.toNat < 2 ^ w)

/-- A profile record is well formed (spec/01 R2). -/
def Profile.wellFormed (p : Profile) : Bool :=
  decide (4 ≤ p.width) && decide (p.width ≤ 32) && Word32.fits p.width p.poly && p.poly.getLsbD 0 &&
    Word32.fits p.width p.seed && Word32.fits p.width p.finalMask

/-- The data set suits the mode and the profile width (spec/04 R64, R73). -/
def LaneMode.wellFormed (w : Nat) : LaneMode → Bool
  | .serial p => decide (Machine.lineCount p.data = 1)
  | .parallel p => decide (1 ≤ Machine.lineCount p.data) && decide (Machine.lineCount p.data ≤ min 16 w)
  | .host => true

/-- The start kind is allowed for the mode (spec/04 R66). -/
def StartKind.allowed (m : LaneMode) : StartKind → Bool
  | .edge _ => decide (m ≠ .host)
  | .immediate => true
  | .host => true

/-- The stop kind is allowed for the mode, and a stop count is a four-byte number above 0 (spec/04 R66). -/
def StopKind.allowed (m : LaneMode) : StopKind → Bool
  | .edge _ => decide (m ≠ .host)
  | .count n => decide (1 ≤ n) && decide (n < 2 ^ 32)
  | .host => true

/-- A count range is a pair of four-byte numbers in order (spec/04 R67). -/
def CountRange.wellFormed (r : CountRange) : Bool := decide (r.min ≤ r.max) && decide (r.max < 2 ^ 32)

/-- A lane is one that R72 and R73 accept when its profile has width `w` (spec/04 R64 to R67). -/
def Lane.wellFormed (w : Nat) (l : Lane) : Bool :=
  l.mode.wellFormed w && l.start.allowed l.mode && l.stop.allowed l.mode &&
    l.sampleLimit.all (fun n => decide (1 ≤ n) && decide (n < 2 ^ 32)) &&
    l.expectedResidue.all (Word32.fits w) && l.expectedCount.all CountRange.wellFormed

/-- The retry limit lies in 1 to 7 (spec/04 R62). -/
def OnFail.wellFormed : OnFail → Bool
  | .retry n _ => decide (1 ≤ n) && decide (n ≤ 7)
  | .cont => true
  | .halt => true

/-- A step record is one that R71 to R73 accept, when `width` gives the width of the profile each slot holds,
none for an empty slot (spec/04 R74). -/
def StepRecord.wellFormed (width : Fin 16 → Option Nat) (r : StepRecord) : Bool :=
  decide (1 ≤ r.lanes.length) && decide (r.lanes.length ≤ 8) && decide ((r.lanes.map (·.unit)).Nodup) &&
    decide (r.timeLimit < 2 ^ 16) && r.settle.all (fun n => decide (n < 2 ^ 16)) && r.onFail.wellFormed &&
    r.lanes.all fun l => (width l.profile).any fun w => l.wellFormed w

/-- A command is well formed. Its operands are ranges by type; the one law left is that a low stop bit is
sampled no earlier than its low began (spec/08 R144). -/
def Instr.wellFormed : Instr → Bool
  | .lowStopBit t since => decide (since ≤ t)
  | .powerOn _ _ _ | .resetLineAssert _ | .resetLine _ _ | .pinChange _ _ _ | .filterExpiry _ _
  | .edgeReceipt _ _ _ _ | .settleEnd _ | .stepTimerExpiry _ | .targetChange _ _ | .holdEnd _ _
  | .pulseEnd _ _ | .character _ _ | .framing _ | .gap _ | .brk _ | .frameSent _ | .unknownKind _
  | .hello _ | .status _ | .setNotices _ | .resetPlan _ | .resetFull _ | .setLink _ | .defineStep _
  | .readStep _ | .eraseSteps _ | .readResults _ | .ackResults _ | .defineProfile _ | .readProfile _
  | .eraseProfile _ | .compute _ | .setProbe _ | .readProbes _ | .run _ | .pause _ | .resume _
  | .abort _ | .markStart _ | .markStop _ | .feed _ | .setFlag _ | .driveFlags _ | .startBit _ _
  | .rxdReturnHigh _ => true

end Sys2Proof
end

