-- ==== Sys2Proof/Safety.lean ====
section
/-! DEFINITION. The terms claims use: timely streams of commands (notes/assumptions/5), what a happening leaves
unchanged, what it is for a request to be taken and answered, and the laws that every state of a run keeps. -/

namespace Sys2Proof.Machine

/-- The instant a command carries. -/
def instantOf : Instr → Nat
  | .powerOn t _ _ | .resetLineAssert t | .resetLine t _ | .pinChange t _ _ | .filterExpiry t _
  | .edgeReceipt t _ _ _ | .settleEnd t | .stepTimerExpiry t | .targetChange t _ | .holdEnd t _
  | .pulseEnd t _ | .character t _ | .lowStopBit t _ | .framing t | .gap t | .brk t | .frameSent t
  | .unknownKind t | .hello t | .status t | .setNotices t | .resetPlan t | .resetFull t | .setLink t
  | .defineStep t | .readStep t | .eraseSteps t | .readResults t | .ackResults t | .defineProfile t
  | .readProfile t | .eraseProfile t | .compute t | .setProbe t | .readProbes t | .run t | .pause t
  | .resume t | .abort t | .markStart t | .markStop t | .feed t | .setFlag t | .driveFlags t
  | .startBit t _ | .rxdReturnHigh t => t

/-- The block has something of its own to do before instant `t`. -/
def State.owesBefore (s : State) (t : Nat) : Bool := s.ownHappenings.any fun d => decide (d.1 < t)

/-- A command comes in time: nothing of the block's own is due before it. A PIN_CHANGE that comes at the instant at which
its line's filter time has run accepts the level itself (spec/02 R22). -/
def State.timely (s : State) (c : Instr) : Bool := !s.owesBefore (instantOf c)

/-- The block's own happenings that are due before `t`, at most `fuel` of them. -/
def State.settleUntil (t : Nat) : Nat → State → State
  | 0, s => s
  | fuel + 1, s =>
    if s.owesBefore t then
      match step { s with pending := [] } with
      | .next s' => State.settleUntil t fuel { s' with pending := s.pending }
      | .fault _ => s
      | .refused _ => s
    else s

/-- A stream of commands played in time: before each, the block's own happenings that are due before it. -/
def State.play (fuel : Nat) : List Instr → State → Host.Outcome State Fault Refusal
  | [], s => .next s
  | c :: cs, s =>
    match exec c (s.settleUntil (instantOf c) fuel) with
    | .next s' => State.play fuel cs s'
    | .fault r => .fault r
    | .refused r => .refused r

/-! ### Frames: what a happening leaves unchanged -/

/-- The parts of State that a happening may touch, by block (spec/00 0.3). -/
inductive Block where
  | probes
  | profiles
  | steps
  | units
  | seq
  | queue
  | flags
  | rx
  | interp
  | tx
  deriving DecidableEq, Repr

/-- A block stands in `s'` as in `s`. -/
def sameBlock (b : Block) (s s' : State) : Prop :=
  match b with
  | .probes => s'.probes = s.probes
  | .profiles => s'.profiles = s.profiles
  | .steps => s'.steps = s.steps
  | .units => s'.units = s.units
  | .seq => s'.seq = s.seq
  | .queue => s'.queue = s.queue
  | .flags => s'.flags = s.flags
  | .rx => s'.rx = s.rx
  | .interp => s'.interp = s.interp
  | .tx => s'.tx = s.tx

/-- Every block but those of a list stands as before, and so do the reset line, the commands that wait and the count
of choices. -/
def unchangedBut (bs : List Block) (s s' : State) : Prop :=
  (∀ b, b ∉ bs → sameBlock b s s') ∧ s'.nResetLow = s.nResetLow ∧ s'.pending = s.pending ∧ s'.choices = s.choices

/-- The pending notices stand as before. -/
def sameNotices (s s' : State) : Prop :=
  s'.tx.start = s.tx.start ∧ s'.tx.link = s.tx.link ∧ s'.tx.plan = s.tx.plan ∧ s'.tx.results = s.tx.results

/-! ### Requests -/

/-- The oldest frame of the request queue is `f`, it can be taken (spec/09 R156), and it is not answered from the
cache (R158 step 1). -/
structure Takes (s : State) (f : Frame) (rest : List Frame) : Prop where
  oldest : s.interp.requests = f :: rest
  free : s.mayTake = true
  fresh : f.retry = true → s.interp.cached f.tag = none

/-- The state with the oldest frame removed from the request queue. -/
def State.popped (rest : List Frame) (s : State) : State := { s with interp := { s.interp with requests := rest } }

/-- The transmitter of `s'` is `x` after the arbiter's choice (spec/09 R172). -/
def sentFrom (x : Transmitter) (s' : State) : Prop := s'.tx = ({ s' with tx := x } : State).arbitrate.tx

/-- A frame has joined the newest end of the reply queue as the reply of an interpreted request, which holds one of the
two places, with what is attached to it; then the arbiter has chosen. The frame in flight was left alone (spec/08 R154,
spec/09 R157, R158, R172). -/
def replyGiven (g : OutFrame) (a : Attached) (s s' : State) : Prop :=
  ∃ x : Transmitter, x.queue = s.tx.queue ++ [{ frame := g, role := .reply, attached := a }] ∧
    x.inFlight = s.tx.inFlight ∧ x.freeAt = s.tx.freeAt ∧ sentFrom x s'

/-- A reply has been written into a cache of at most eight entries: it is the newest; it replaces an entry of its tag,
else it is added, and where eight entries stand the oldest leaves (spec/09 R159). -/
def cacheWritten (tag : Byte) (g : OutFrame) (before after : List CacheEntry) : Prop :=
  ((∃ e ∈ before, e.tag = tag) → before.length ≤ 8 →
    after = before.filter (fun e => decide (e.tag ≠ tag)) ++ [{ tag := tag, frame := g }]) ∧
  ((∀ e ∈ before, e.tag ≠ tag) →
    (before.length < 8 → after = before ++ [{ tag := tag, frame := g }]) ∧
    (before.length = 8 → after = before.tail ++ [{ tag := tag, frame := g }]))

/-- The reply of `f` with a payload: tag of the request, KIND plus 0x80, CTRL 0 (spec/09 R161). -/
def replyTo (f : Frame) (payload : List Byte) : OutFrame := mkFrame f.tag (f.kind + 0x80) payload

/-- The taking of `f` has ended: it has left the request queue, its reply is in the cache as the newest entry, and the
reply has been given, with what is attached to it (spec/09 R158, R159). -/
def answeredWith (a : Attached) (f : Frame) (rest : List Frame) (payload : List Byte) (s s' : State) : Prop :=
  s'.interp.requests = rest ∧ cacheWritten f.tag (replyTo f payload) s.interp.cache s'.interp.cache ∧
    replyGiven (replyTo f payload) a s s'

/-- The taking of `f` has ended with a reply to which nothing is attached. -/
def answered (f : Frame) (rest : List Frame) (payload : List Byte) (s s' : State) : Prop :=
  answeredWith .nothing f rest payload s s'

/-- The notice mask and reset pending stand as before. -/
def sameSettings (s s' : State) : Prop :=
  s'.interp.mask = s.interp.mask ∧ s'.interp.resetPending = s.interp.resetPending

/-- A taking that touches nothing but the interpreter and the transmitter, and raises no notice. -/
def answeredOnly (f : Frame) (rest : List Frame) (payload : List Byte) (s s' : State) : Prop :=
  answered f rest payload s s' ∧ sameSettings s s' ∧ sameNotices s s' ∧ unchangedBut [.interp, .tx] s s'

/-! ### The effects that several commands share -/

/-- Every line stands as `f` gives it, and each whose target has changed since `before` waits for one more change
of target, the target as it stands now (spec/07 R126). -/
def linesNoted (before s' : State) (f : Fin 4 → FlagLine) : Prop :=
  ∀ n : Fin 4, s'.flags[n] =
    if before.targetOf before.flags[n] = s'.targetOf (f n) then f n else (f n).note (s'.targetOf (f n))

/-- The PLAN notice that a change of plan condition raises is pending with the values of `s'`, or PLAN is masked
(spec/05 R104, spec/09 R168, R169). -/
def planNoticed (s s' : State) : Prop :=
  s'.tx.plan =
    if s.interp.mask.plan then
      some { condition := s'.seq.plan.condition, step := s'.seq.step, attempt := s'.seq.attempt,
             iteration := s'.seq.iteration, outcome := s'.seq.lastOutcome,
             count := min 255 ((s.tx.plan.map (·.count)).getD 0 + 1) }
    else s.tx.plan

/-- The pending notices but PLAN stand as before. -/
def sameNoticesButPlan (s s' : State) : Prop :=
  s'.tx.start = s.tx.start ∧ s'.tx.link = s.tx.link ∧ s'.tx.results = s.tx.results

/-- The flag line with the level that a step's pattern gives it (spec/05 R84, spec/07 R127). -/
def patterned (r : StepRecord) (n : Fin 4) (f : FlagLine) : FlagLine :=
  match r.pattern with
  | none => f
  | some v =>
    match v[n] with
    | .keep => f
    | .low => { f with patternLevel := false }
    | .high => { f with patternLevel := true }

/-- The plan is CAPTURING: every lane's unit is armed with its lane and its profile, the step timer runs, and no
other unit is reached (spec/05 R85, spec/03 R36). -/
def capturing (r : StepRecord) (s s' : State) : Prop :=
  s'.seq.plan = .capturing ∧ s'.seq.settleEndAt = none ∧
    s'.seq.stepTimerAt = (if r.timeLimit = 0 then none else some (s'.now + millis r.timeLimit)) ∧
    (∀ l ∈ r.lanes, ∀ p, s.profileAt l.profile = some p →
      s'.units[l.unit] = some
        { phase := if l.start = .immediate then .opened else .armed, lane := l, profile := p, residue := p.seed,
          samples := 0, transitions := 0, previous := none,
          openedAt := if l.start = .immediate then some s'.now else none, reason := none, duration := 0,
          inbox := [] }) ∧
    ∀ u : Fin 8, (∀ l ∈ r.lanes, l.unit ≠ u) → s'.units[u] = s.units[u]

/-- The step of record `r` has started (spec/05 R84): step copy, close reports, step start time and pattern levels,
and SETTLING with its timer or, with no settle time, CAPTURING. -/
def stepStarted (r : StepRecord) (clock : Nat) (s s' : State) : Prop :=
  s'.seq.stepCopy = some r ∧ (∀ i : Fin 8, s'.seq.reports[i] = none) ∧ s'.seq.stepStart = clock ∧
    linesNoted { s with now := s'.now } s' (fun n => patterned r n s.flags[n]) ∧
    if 0 < r.settle.getD 0 then
      s'.seq.plan = .settling ∧ s'.seq.settleEndAt = some (s'.now + micros (r.settle.getD 0)) ∧
        s'.seq.stepTimerAt = s.seq.stepTimerAt ∧ s'.units = s.units
    else capturing r s s'

/-- What the start of a step leaves, from a state `x` whose current slot holds `r` (spec/05 R84, R85). -/
structure StepBegins (r : StepRecord) (x y : State) : Prop where
  now : y.now = x.now
  nResetLow : y.nResetLow = x.nResetLow
  probes : y.probes = x.probes
  profiles : y.profiles = x.profiles
  steps : y.steps = x.steps
  queue : y.queue = x.queue
  rx : y.rx = x.rx
  interp : y.interp = x.interp
  tx : y.tx = x.tx
  pending : y.pending = x.pending
  choices : y.choices = x.choices
  lines : ∀ n : Fin 4, y.flags[n] = patterned r n x.flags[n]
  copy : y.seq.stepCopy = some r
  reports : ∀ i : Fin 8, y.seq.reports[i] = none
  stepStart : y.seq.stepStart = x.runClock
  kept : y.seq = { x.seq with
    plan := y.seq.plan, stepCopy := y.seq.stepCopy, reports := y.seq.reports, stepStart := y.seq.stepStart,
    settleEndAt := y.seq.settleEndAt, stepTimerAt := y.seq.stepTimerAt }
  goes : if 0 < r.settle.getD 0 then
      y.seq.plan = .settling ∧ y.seq.settleEndAt = some (y.now + micros (r.settle.getD 0)) ∧
        y.seq.stepTimerAt = x.seq.stepTimerAt ∧ y.units = x.units
    else capturing r x y

/-- The run has been stopped (spec/05 R100): plan IDLE, every unit IDLE, no timer, nothing kept of the attempt, the
pattern levels at rest, and the outcome recorded. -/
def runStopped (kind : OutcomeKind) (s s' : State) : Prop :=
  s'.seq = { s.seq with
    plan := .idle, pausePending := false, stepCopy := none, runClockFrom := none, settleEndAt := none,
    stepTimerAt := none, reports := Vector.replicate 8 none, heldVerdict := none,
    lastOutcome := some { kind := kind, step := s.seq.step, iteration := s.seq.iteration } } ∧
  (∀ u : Fin 8, s'.units[u] = none) ∧
  linesNoted { s with now := s'.now } s' (fun n => { s.flags[n] with patternLevel := s.flags[n].restLevel })

/-- The edge `e` is the oldest of its line among those that unit `u` has yet to receive, and `left` is the unit with
the edge received (spec/02 R25). -/
structure Receives (s : State) (u : Fin 8) (b : Bound) (e : ProbeEdge) (left : Bound) : Prop where
  unit : s.units[u] = some b
  waits : ∃ older later, b.inbox = older ++ e :: later ∧ (∀ x ∈ older, x.line ≠ e.line) ∧
    left = { b with inbox := older ++ later }

/-- A happening at unit `u`: the unit stands as `b`, every other unit as before, and beside the units only flag
targets and TXD are reached. -/
def unitChanged (u : Fin 8) (b : Bound) (s s' : State) : Prop :=
  s'.units[u] = some b ∧ (∀ v, v ≠ u → s'.units[v] = s.units[v]) ∧ unchangedBut [.units, .flags, .tx] s s' ∧
    linesNoted { s with now := s'.now } s' (fun n => s.flags[n])

/-- Position `i` of the step copy names unit `u`, and some other lane is still without a close report, so that a
close of `u` does not end the step (spec/05 R87). -/
structure ClosesEarly (s : State) (u : Fin 8) (i : Fin 8) : Prop where
  lane : s.seq.laneOf u = some i.val
  other : ∃ r l, ∃ j : Fin 8, s.seq.stepCopy = some r ∧ r.lanes[j.val]? = some l ∧ j ≠ i ∧ s.seq.reports[j] = none

/-- The window duration at the instant `now` (spec/03 R46). -/
def windowDuration (now : Nat) (b : Bound) : Nat :=
  match b.openedAt with
  | none => 0
  | some t => min (2 ^ 32 - 1) ((now - t) / Config.ticksPerMicro)

/-- A unit after its close at `now` (spec/03 R47). -/
def closedAs (now : Nat) (reason : CloseReason) (b : Bound) : Bound :=
  { b with phase := .closed, reason := some reason, duration := windowDuration now b, inbox := [] }

/-- The close report of unit `u` (spec/03 R47, R48). -/
def reportOf (now : Nat) (u : Fin 8) (reason : CloseReason) (b : Bound) : CloseReport :=
  { unit := u, reason := reason, residue := b.residue ^^^ b.profile.finalMask, samples := b.samples,
    transitions := b.transitions, duration := windowDuration now b }

/-- Unit `u` has closed from `b` with a reason, and its report stands at position `i`, with no step end (spec/03
R47, spec/05 R87). -/
def closedEarly (u : Fin 8) (i : Fin 8) (reason : CloseReason) (b : Bound) (s s' : State) : Prop :=
  s'.units[u] = some (closedAs s'.now reason b) ∧
    s'.seq = { s.seq with reports := s.seq.reports.set i (some (reportOf s'.now u reason b)) }

/-- The unit of each lane that `why` gives a reason closes with it, and the lanes of `r` that are still without a close
report are those: with the last of these closes the step ends (spec/05 R87). -/
structure ClosesLast (s : State) (r : StepRecord) (why : Fin 8 → Option CloseReason) : Prop where
  copy : s.seq.stepCopy = some r
  few : r.lanes.length ≤ 8
  distinct : (r.lanes.map (·.unit)).Nodup
  missing : ∀ (j : Fin 8) (l : Lane), r.lanes[j.val]? = some l → (s.seq.reports[j] = none ↔ why l.unit ≠ none)
  named : ∀ u, why u ≠ none → ∃ l ∈ r.lanes, l.unit = u
  closes : ∃ u, why u ≠ none

/-- The state with the units that `why` gives a reason closed, and the report of each at its lane's position. -/
def State.withClosed (why : Fin 8 → Option CloseReason) (s : State) : State :=
  { s with
    units := Vector.ofFn fun u => s.units[u].map fun b =>
      match why u with
      | none => b
      | some reason => closedAs s.now reason b
    seq := { s.seq with reports := Vector.ofFn fun i =>
      match s.seq.stepCopy.bind fun r => r.lanes[i.val]? with
      | none => s.seq.reports[i]
      | some l =>
        match why l.unit, s.units[l.unit] with
        | some reason, some b => some (reportOf s.now l.unit reason b)
        | _, _ => s.seq.reports[i] } }

/-- Why one unit closes. -/
def onlyUnit (u : Fin 8) (reason : CloseReason) (v : Fin 8) : Option CloseReason := if v = u then some reason else none

/-- The step end has come from `x`, in which every lane has its report: plan, units and Result Queue stand in `s'` as
the step end leaves them (spec/05 R87 to R97). -/
def stepEnded (x s' : State) : Prop :=
  s'.seq = x.endStep.seq ∧ s'.units = x.endStep.units ∧ s'.queue = x.endStep.queue

/-- The notices that such a step end raises are pending: RESULTS as the step end leaves it, and PLAN when the plan
condition has changed (spec/05 R104, spec/06 R116). -/
def endNoticed (x s s' : State) : Prop :=
  s'.tx.results = x.endStep.tx.results ∧ s'.tx.start = s.tx.start ∧ s'.tx.link = s.tx.link ∧
    if s'.seq.plan.condition = s.seq.plan.condition then s'.tx.plan = s.tx.plan else planNoticed s s'

/-- The records of an attempt stand for its lanes in lane order, each with the values of the close report at its position
(spec/05 R90, spec/06 R111, R113). -/
def recordsOf (s : State) (r : StepRecord) (v : Verdict) (rs : List ResultRecord) : Prop :=
  rs.length = r.lanes.length ∧
    ∀ (k : Nat) (x : ResultRecord) (l : Lane) (j : Fin 8) (c : CloseReport), rs[k]? = some x →
      r.lanes[k]? = some l → j.val = k → s.seq.reports[j] = some c →
      x = { sequence := s.queue.next + BitVec.ofNat 16 k, step := s.seq.step, label := r.label,
            attempt := s.seq.attempt, iteration := s.seq.iteration, lanePosition := k + 1, unit := l.unit,
            profile := l.profile, reason := c.reason, laneVerdict := laneVerdict l c, stepVerdict := v,
            residueCheck := residueCheck l c, countCheck := countCheck l c, residue := c.residue,
            samples := c.samples, transitions := c.transitions, stepStart := s.seq.stepStart,
            duration := c.duration }

/-- The RESULTS notice after a post of `k` records to a queue of `c` records with next sequence `n` (spec/06 R116, R117,
spec/09 R168, R169). -/
def resultsNoticed (c k : Nat) (n : BitVec 16) (mask : NoticeMask) (old : Option ResultsNotice) :
    Option ResultsNotice :=
  if mask.results = true ∧ (c = 0 ∨ old ≠ none) then
    some { held := c + k, oldest := n - BitVec.ofNat 16 c, newest := n + BitVec.ofNat 16 k - 1,
           count := min 255 ((old.map (·.count)).getD 0 + 1) }
  else old

/-- A line with the pulse end that a boundary's trigger gives it (spec/05 R93, spec/07 R128). -/
def pulsed (now : Nat) (v : Verdict) (f : FlagLine) : FlagLine :=
  if f.source = .stepEnd ∨ (f.source = .fail ∧ (v = .fail ∨ v = .fault)) then
    { f with pulseEnd := some (now + micros (max 1 f.width)) }
  else f

/-- The state with the units of a step released, the reports discarded and the pulses of the boundary triggered
(spec/05 R93). -/
def State.released (r : StepRecord) (v : Verdict) (s : State) : State :=
  { s with
    units := Vector.ofFn fun u => if r.lanes.any (fun l => decide (l.unit = u)) then none else s.units[u]
    seq := { s.seq with reports := Vector.replicate 8 none }
    flags := Vector.ofFn fun n => pulsed s.now v s.flags[n] }

/-! ### The bits of a FEED (spec/03 R56) -/

/-- The bits of host-fed bytes in the order in which they fold (spec/01 R9). -/
def bitsOf (o : ByteOrder) (bytes : List Byte) : List Bool :=
  bytes.flatMap fun b => (List.range 8).map fun j => b.getLsbD (if o = .msbFirst then 7 - j else j)

/-- One bit of a FEED is one sample: folded, compared with the previous one, and counted (spec/03 R43, R44, R45). -/
def sampledBit (b : Bound) (d : Bool) : Bound :=
  { b with
    residue := serialFold b.profile b.residue d
    transitions := if b.previous = none ∨ b.previous = some [d] then b.transitions
      else min (2 ^ 32 - 2) (b.transitions + 1)
    previous := some [d]
    samples := min (2 ^ 32 - 1) (b.samples + 1) }

/-- The sample count stands at the stop count or at the sample limit of the lane (spec/03 R45). -/
def Bound.reached (b : Bound) : Prop := b.lane.stop = .count b.samples ∨ b.lane.sampleLimit = some b.samples

/-- After `k` of its bits a FEED closes the window of `b`, from `c` and with a reason: at the first bit that reaches the
stop count or the sample limit, or with FINAL after the last bit (spec/03 R45, R56, R57). -/
structure FeedCloses (b : Bound) (bits : List Bool) (final : Bool) (k : Nat) (c : Bound) (reason : CloseReason) :
    Prop where
  within : k ≤ bits.length
  unit : c = (bits.take k).foldl sampledBit b
  before : ∀ m, 1 ≤ m → m < k → ¬((bits.take m).foldl sampledBit b).reached
  why : (1 ≤ k ∧ c.reached ∧ reason = if c.lane.stop = .count c.samples then .stop else .limit) ∨
    (k = bits.length ∧ ¬(1 ≤ k ∧ c.reached) ∧ final = true ∧ reason = .stop)

/-- Every block as R31, R19, R78, R59, R107, R123 and R134 give it after power-on, with pin levels `pins`. -/
def freshBlocks (pins : Fin 16 → Bool) (s : State) : Prop :=
  (∀ n : Fin 16, s.probes[n] =
    { pin := pins n, invert := false, filter := 0, level := pins n, state := .steady, mark := false }) ∧
  (∀ n : Fin 14, s.profiles[n] = none) ∧ (∀ n : Fin 96, s.steps[n] = none) ∧ (∀ u : Fin 8, s.units[u] = none) ∧
  s.seq = { plan := .idle, runFirst := 0, runLast := 0, loopCount := 0, iteration := 0, step := 0, attempt := 0,
            pausePending := false, stepCopy := none, stepStart := 0, runClockFrom := none, settleEndAt := none,
            stepTimerAt := none, reports := Vector.replicate 8 none, heldVerdict := none, lastOutcome := none } ∧
  s.queue = { records := [], next := 0 } ∧
  ∀ n : Fin 4, s.flags[n] =
    { source := .host, invert := false, width := 0, hostLevel := false, restLevel := false, patternLevel := false,
      pulseEnd := none, output := false, holdEnd := none, target := false, changes := [] }

/-- The interpreter as R174 gives it after a reset. -/
def freshInterpreter (s : State) : Prop :=
  s.interp = { requests := [], resetPending := false, cache := [],
               mask := { link := true, plan := true, results := true } }

/-- The START notice of a reason with repeat count 1 is in flight from this instant, and nothing else waits (spec/09
R170, R172). -/
def startBegins (reason : Byte) (s : State) : Prop :=
  s.tx.queue = [] ∧ s.tx.start = none ∧ s.tx.link = none ∧ s.tx.plan = none ∧ s.tx.results = none ∧
    s.tx.inFlight = some { frame := mkFrame 0 0x40 [reason, 1], role := .notice, attached := .nothing,
                           beganAt := s.now, rate := s.rx.rate }

/-- A flag line has taken target `v` through the stretcher: with no hold running the output takes it, and a change of
output starts a hold of W (spec/07 R129 rows 1 and 2). -/
def targetTaken (now : Nat) (v : Bool) (f : FlagLine) : FlagLine :=
  if (∃ h, f.holdEnd = some h ∧ now < h) ∨ f.output = v then { f with target := v }
  else { f with
    target := v
    output := v
    holdEnd := if f.width = 0 then none else some (now + micros f.width) }

/-! ### Records and lanes as bytes carry them (spec/10 10.5, 10.6) -/

/-- Every field of a result record stands in its place of the 31 bytes (spec/10 10.6). -/
def recordLaidOut (x : ResultRecord) (b : List Byte) : Prop :=
  b.length = 31 ∧ ofLeBytes (b.take 2) = x.sequence.toNat ∧ (b.getD 2 0).toNat = x.step.val ∧
    ofLeBytes ((b.drop 3).take 2) = x.label.toNat ∧ ofLeBytes ((b.drop 5).take 2) = x.iteration % 2 ^ 16 ∧
    (x.attempt ≤ 7 → x.lanePosition ≤ 8 →
      (b.getD 7 0).toNat % 8 = x.attempt ∧ (b.getD 7 0).toNat / 8 = x.lanePosition) ∧
    (b.getD 8 0).toNat % 8 = x.unit.val ∧ (b.getD 8 0).toNat / 8 = x.profile.val ∧
    [CloseReason.stop, .limit, .noStart, .timeLimit][(b.getD 9 0).toNat % 4]? = some x.reason ∧
    [Verdict.pass, .fail, .unchecked, .fault][(b.getD 9 0).toNat / 4 % 4]? = some x.laneVerdict ∧
    [Verdict.pass, .fail, .unchecked, .fault][(b.getD 9 0).toNat / 16]? = some x.stepVerdict ∧
    [CheckResult.notApplied, .met, .failed][(b.getD 10 0).toNat % 4]? = some x.residueCheck ∧
    [CheckResult.notApplied, .met, .failed][(b.getD 10 0).toNat / 4]? = some x.countCheck ∧
    ofLeBytes ((b.drop 11).take 4) = x.residue.toNat ∧ ofLeBytes ((b.drop 15).take 4) = x.samples % 2 ^ 32 ∧
    ofLeBytes ((b.drop 19).take 4) = x.transitions % 2 ^ 32 ∧ ofLeBytes ((b.drop 23).take 4) = x.stepStart % 2 ^ 32 ∧
    ofLeBytes ((b.drop 27).take 4) = x.duration % 2 ^ 32

/-- The payload of an accepted READ RESULTS: the number returned, the count held, and the records one after another
(spec/10 10.6 note 2). -/
def resultsCarried (held : Nat) (rs : List ResultRecord) (p : List Byte) : Prop :=
  p.length = 4 + 31 * rs.length ∧ p.take 4 = [0, 0, BitVec.ofNat 8 rs.length, BitVec.ofNat 8 held] ∧
    ∀ (j : Nat) (x : ResultRecord), rs[j]? = some x → recordLaidOut x ((p.drop (4 + 31 * j)).take 31)

/-- Bit `i` of the byte at offset `n`. -/
def bitAt (b : List Byte) (n i : Nat) : Bool := (b.getD n 0).getLsbD i

/-- Optional fields in their order, each present or not, with its size in bytes. -/
abbrev Parts := List (Bool × Nat)

/-- The bytes that the fields present take. -/
def Parts.size (ps : Parts) : Nat := (ps.map fun p => if p.1 then p.2 else 0).sum

/-- The number in field `k` when it is present, the fields standing one directly after another from offset `start`. -/
def Parts.field (ps : Parts) (start k : Nat) (b : List Byte) : Option Nat :=
  ps[k]?.bind fun p => if p.1 then some (ofLeBytes ((b.drop (start + Parts.size (ps.take k))).take p.2)) else none

/-- The optional fields of a step header after its 8 bytes: settle, flag pattern, retry limit, exhaust action (spec/10
10.5). -/
def headerParts (b : List Byte) : Parts := [(bitAt b 7 0, 2), (bitAt b 7 1, 1), (bitAt b 7 2, 1), (bitAt b 7 3, 1)]

/-- The optional fields of a lane after its 3 bytes: data lines, clock, qualifier, start line, stop line, stop count,
sample limit, expected residue, minimum and maximum of the count range (spec/10 10.5, R178). -/
def laneParts (b : List Byte) : Parts :=
  [(bitAt b 2 0, 2), (bitAt b 2 1, 1), (bitAt b 2 2, 1), (decide ((b.getD 0 0).toNat / 64 = 1), 1),
    (decide ((b.getD 1 0).toNat / 32 % 4 = 0), 1), (decide ((b.getD 1 0).toNat / 32 % 4 = 1), 4),
    (bitAt b 2 3, 4), (bitAt b 2 4, 4), (bitAt b 2 5, 4), (bitAt b 2 5, 4)]

/-- The declared length of a step header (spec/10 R178). -/
def headerLength (b : List Byte) : Nat := 8 + (headerParts b).size

/-- The declared length of the lane at the front (spec/10 R178). -/
def laneLength (b : List Byte) : Nat := 3 + (laneParts b).size

/-- The bytes are `n` lanes one after another, each of its declared length, with none left over (spec/10 R178). -/
def lanesFit : Nat → List Byte → Prop
  | 0, b => b = []
  | n + 1, b => laneLength b ≤ b.length ∧ lanesFit n (b.drop (laneLength b))

/-- The length of a step record's bytes is the one they declare (spec/10 R178). -/
def stepFits (b : List Byte) : Prop :=
  headerLength b ≤ b.length ∧ lanesFit (b.getD 1 0).toNat (b.drop (headerLength b))

/-- The fields read from a lane are those at their places in its bytes (spec/10 10.5). -/
def laneCarried (l : RawLane) (b : List Byte) : Prop :=
  l.unit = (b.getD 0 0).toNat % 16 ∧ l.mode = (b.getD 0 0).toNat / 16 % 4 ∧ l.startKind = (b.getD 0 0).toNat / 64 ∧
    l.slot = (b.getD 1 0).toNat % 32 ∧ l.stopKind = (b.getD 1 0).toNat / 32 % 4 ∧
    l.data = (laneParts b).field 3 0 b ∧ l.clock = (laneParts b).field 3 1 b ∧
    l.qualifier = (laneParts b).field 3 2 b ∧ l.startLine = (laneParts b).field 3 3 b ∧
    l.stopParam = (if l.stopKind = 0 then (laneParts b).field 3 4 b else (laneParts b).field 3 5 b) ∧
    l.sampleLimit = (laneParts b).field 3 6 b ∧ l.expectedResidue = (laneParts b).field 3 7 b ∧
    l.countMin = (laneParts b).field 3 8 b ∧ l.countMax = (laneParts b).field 3 9 b

/-- Lanes stand one directly after another, each as `fits` says. -/
def lanesStand {α : Type} (fits : α → List Byte → Prop) : List α → List Byte → Prop
  | [], b => b = []
  | l :: ls, b => fits l (b.take (laneLength b)) ∧ lanesStand fits ls (b.drop (laneLength b))

/-- The fields read from a step record are those at their places in its bytes (spec/10 10.5). -/
def stepCarried (r : RawStep) (b : List Byte) : Prop :=
  r.number = (b.getD 0 0).toNat ∧ r.laneCount = (b.getD 1 0).toNat ∧ r.label = ofLeBytes ((b.drop 2).take 2) ∧
    r.timeLimit = ofLeBytes ((b.drop 4).take 2) ∧ r.onFail = (b.getD 6 0).toNat ∧
    r.settle = (headerParts b).field 8 0 b ∧ r.pattern = (headerParts b).field 8 1 b ∧
    r.retryLimit = (headerParts b).field 8 2 b ∧ r.exhaust = (headerParts b).field 8 3 b ∧
    r.lanes.length = r.laneCount ∧ lanesStand laneCarried r.lanes (b.drop (headerLength b))

/-- A line-sense byte: the line in bits 0 to 4, the sense in bits 5 and 6, bit 7 clear (spec/10 10.5 note 1). -/
def senseNumber (line : Fin 16) (sense : Bool) : Nat := line.val + 32 * (if sense then 1 else 0)

/-- The line-sense byte of an edge: 0 RISING, 1 FALLING. -/
def edgeNumber (e : LineEdge) : Nat := senseNumber e.line (decide (e.edge = .falling))

/-- The clock, the data lines and the qualifier of a probe lane stand at their places. -/
def probeLaidOut (p : ProbeInput) (b : List Byte) : Prop :=
  (laneParts b).field 3 0 b = some p.data.toNat ∧ (laneParts b).field 3 1 b = some (edgeNumber p.clock) ∧
    (laneParts b).field 3 2 b = p.qualifier.map fun q => senseNumber q.line q.high

/-- A lane stands at its places in its bytes, with the presence bits of the fields it has and every unused bit 0
(spec/10 10.5, R178; spec/04 R63 to R67). -/
def laneLaidOut (l : Lane) (b : List Byte) : Prop :=
  (b.getD 0 0).toNat % 16 = l.unit.val ∧ (b.getD 1 0).toNat % 32 = l.profile.val ∧
    (match l.mode with
      | .serial p => (b.getD 0 0).toNat / 16 % 4 = 0 ∧ probeLaidOut p b
      | .parallel p => (b.getD 0 0).toNat / 16 % 4 = 1 ∧ probeLaidOut p b
      | .host => (b.getD 0 0).toNat / 16 % 4 = 2 ∧ (b.getD 2 0).toNat % 8 = 0) ∧
    (match l.start with
      | .immediate => (b.getD 0 0).toNat / 64 = 0
      | .edge e => (b.getD 0 0).toNat / 64 = 1 ∧ (laneParts b).field 3 3 b = some (edgeNumber e)
      | .host => (b.getD 0 0).toNat / 64 = 2) ∧
    (match l.stop with
      | .edge e => (b.getD 1 0).toNat / 32 = 0 ∧ (laneParts b).field 3 4 b = some (edgeNumber e)
      | .count n => (b.getD 1 0).toNat / 32 = 1 ∧ (laneParts b).field 3 5 b = some n
      | .host => (b.getD 1 0).toNat / 32 = 2) ∧
    (b.getD 2 0).toNat < 64 ∧ (laneParts b).field 3 6 b = l.sampleLimit ∧
    (laneParts b).field 3 7 b = l.expectedResidue.map (·.toNat) ∧
    (laneParts b).field 3 8 b = l.expectedCount.map (·.min) ∧
    (laneParts b).field 3 9 b = l.expectedCount.map (·.max)

/-- A step record stands at its places in its bytes, which have their declared length, with the presence bits of the
fields it has and every unused bit 0 (spec/10 10.5, R178; spec/04 R60 to R62). -/
def stepLaidOut (r : StepRecord) (b : List Byte) : Prop :=
  stepFits b ∧ (b.getD 0 0).toNat = r.number.val ∧ (b.getD 1 0).toNat = r.lanes.length ∧
    ofLeBytes ((b.drop 2).take 2) = r.label.toNat ∧ ofLeBytes ((b.drop 4).take 2) = r.timeLimit ∧
    (b.getD 7 0).toNat < 16 ∧ (headerParts b).field 8 0 b = r.settle ∧
    (r.pattern = none → (headerParts b).field 8 1 b = none) ∧
    (∀ v, r.pattern = some v → ∃ x, (headerParts b).field 8 1 b = some x ∧
      ∀ n : Fin 4, [PatternValue.keep, .low, .high][x / 4 ^ n.val % 4]? = some v[n]) ∧
    (match r.onFail with
      | .cont => (b.getD 6 0).toNat = 0 ∧ (headerParts b).field 8 2 b = none ∧ (headerParts b).field 8 3 b = none
      | .halt => (b.getD 6 0).toNat = 1 ∧ (headerParts b).field 8 2 b = none ∧ (headerParts b).field 8 3 b = none
      | .retry limit x => (b.getD 6 0).toNat = 2 ∧ (headerParts b).field 8 2 b = some limit ∧
        (headerParts b).field 8 3 b = some (if x = .cont then 0 else 1)) ∧
    lanesStand laneLaidOut r.lanes (b.drop (headerLength b))

/-- A line-sense byte has a line above 15 or a sense above 1 (spec/10 10.5 note 1). -/
def senseFault (n : Nat) : Prop := 15 < n % 32 ∨ 1 < n / 32 % 4

/-- How many lines a data set names. -/
def linesNamed (d : Nat) : Nat := (List.range 16).countP fun i => d.testBit i

/-- A fault among checks 5 to 12 of a lane whose profile has width `w`, each of status RANGE (spec/04 R72, R73). -/
inductive LaneFault (w : Nat) (l : RawLane) : Prop where
  | mode (h : 2 < l.mode)
  | noData (h : l.mode < 2) (e : l.data = none)
  | noClock (h : l.mode < 2) (e : l.clock = none)
  | clock (h : l.mode < 2) (n : Nat) (e : l.clock = some n) (f : senseFault n)
  | qualifier (h : l.mode < 2) (n : Nat) (e : l.qualifier = some n) (f : senseFault n)
  | hostInput (h : l.mode = 2) (e : l.data ≠ none ∨ l.clock ≠ none ∨ l.qualifier ≠ none)
  | startKind (h : 2 < l.startKind ∨ (l.startKind = 1 ∧ l.mode = 2))
  | startLine (h : l.startKind = 1) (f : l.startLine = none ∨ ∃ n, l.startLine = some n ∧ senseFault n)
  | stopKind (h : 2 < l.stopKind ∨ (l.stopKind = 0 ∧ l.mode = 2))
  | stopLine (h : l.stopKind = 0) (f : l.stopParam = none ∨ ∃ n, l.stopParam = some n ∧ senseFault n)
  | stopCount (h : l.stopKind = 1) (f : l.stopParam = none ∨ l.stopParam = some 0)
  | sampleLimit (h : l.sampleLimit = some 0)
  | serialData (h : l.mode = 0) (d : Nat) (e : l.data = some d) (f : linesNamed d ≠ 1)
  | parallelData (h : l.mode = 1) (d : Nat) (e : l.data = some d) (f : linesNamed d < 1 ∨ min 16 w < linesNamed d)
  | residue (x : Nat) (e : l.expectedResidue = some x) (f : 2 ^ w ≤ x)
  | count (lo hi : Nat) (e : l.countMin = some lo) (e' : l.countMax = some hi) (f : hi < lo)

/-- A line-sense byte names a line and an edge. -/
def namesEdge (n : Nat) (e : LineEdge) : Prop :=
  e.line.val = n % 32 ∧ e.edge = if n / 32 % 4 = 0 then .rising else .falling

/-- The bytes of a probe-mode lane give its clock, data and qualifier. -/
def probeRead (l : RawLane) (p : ProbeInput) : Prop :=
  (∃ d, l.data = some d ∧ p.data = BitVec.ofNat 16 d) ∧ (∃ n, l.clock = some n ∧ namesEdge n p.clock) ∧
    (l.qualifier = none → p.qualifier = none) ∧
    ∀ n, l.qualifier = some n → ∃ q, p.qualifier = some q ∧ q.line.val = n % 32 ∧ q.high = decide (n / 32 % 4 = 1)

/-- The fields of a lane record are those that its bytes hold (spec/10 10.5). -/
def laneRead (l : RawLane) (x : Lane) : Prop :=
  (l.mode = 0 → ∃ p, x.mode = .serial p ∧ probeRead l p) ∧ (l.mode = 1 → ∃ p, x.mode = .parallel p ∧ probeRead l p) ∧
    (l.mode = 2 → x.mode = .host) ∧
    (l.startKind = 0 → x.start = .immediate) ∧
    (l.startKind = 1 → ∃ n e, l.startLine = some n ∧ x.start = .edge e ∧ namesEdge n e) ∧
    (l.startKind = 2 → x.start = .host) ∧
    (l.stopKind = 0 → ∃ n e, l.stopParam = some n ∧ x.stop = .edge e ∧ namesEdge n e) ∧
    (l.stopKind = 1 → ∃ n, l.stopParam = some n ∧ x.stop = .count n) ∧ (l.stopKind = 2 → x.stop = .host) ∧
    x.sampleLimit = l.sampleLimit ∧ x.expectedResidue = l.expectedResidue.map (BitVec.ofNat 32) ∧
    (l.countMin = none → l.countMax = none → x.expectedCount = none) ∧
    ∀ lo hi, l.countMin = some lo → l.countMax = some hi → x.expectedCount = some { min := lo, max := hi }

/-- The pending LINK notice after a raise with a reason: the reason joins the set and is the latest, unless LINK is
masked (spec/08 R146, spec/09 R168, R169). -/
def linkRaised (reason : LinkReason) (mask : NoticeMask) (old : Option LinkNotice) : Option LinkNotice :=
  if mask.link then some
    { latest := reason
      reasons := (old.map (·.reasons)).getD 0 |||
        (1 <<< [LinkReason.gap, .length, .check, .framing, .unexpected, .recovery].idxOf reason)
      count := min 255 ((old.map (·.count)).getD 0 + 1) }
  else old

/-- A LINK notice of a reason has been raised on the transmitter of `s`, and then the arbiter has chosen (spec/08 R146,
spec/09 R172). -/
def linkNoticed (reason : LinkReason) (s s' : State) : Prop :=
  sentFrom { s.tx with link := linkRaised reason s.interp.mask s.tx.link } s'

/-- The character of `f` that is in progress at `now` ends at `e` (spec/08 R151 step 5); a frame that has not begun has
none. -/
def characterEnds (f : InFlight) (now e : Nat) : Prop :=
  (∃ k, e = f.beganAt + k * f.rate.characterTime) ∧ (now ≤ f.beganAt → e = f.beganAt) ∧
    (f.beganAt ≤ now → now ≤ e ∧ e < now + f.rate.characterTime)

/-- The bytes of a request frame on RXD (spec/08 8.2, R138). -/
def Frame.wire (f : Frame) : List Byte :=
  [0xC5, BitVec.ofNat 8 f.payload.length, f.tag, f.kind, f.ctrl] ++ f.payload ++
    leBytes 2 (frameCheck f.tag f.kind f.ctrl f.payload).toNat

/-- The commands that take a request. -/
def takings (t : Nat) : List Instr :=
  [.unknownKind t, .hello t, .status t, .setNotices t, .resetPlan t, .resetFull t, .setLink t, .defineStep t,
    .readStep t, .eraseSteps t, .readResults t, .ackResults t, .defineProfile t, .readProfile t, .eraseProfile t,
    .compute t, .setProbe t, .readProbes t, .run t, .pause t, .resume t, .abort t, .markStart t, .markStop t,
    .feed t, .setFlag t, .driveFlags t]

/-- The commands that reset every flag line: the resets of the part and the application of a FULL reset (spec/07
R130, R134). -/
def resetsFlags (c : Instr) (s : State) : Prop :=
  match c with
  | .powerOn _ _ _ | .resetLineAssert _ | .resetLine _ _ => True
  | .frameSent _ => s.tx.inFlight.any (fun f => decide (f.attached = .fullReset)) = true
  | .brk _ => s.interp.resetPending = true
  | .filterExpiry _ _ | .edgeReceipt _ _ _ _ | .settleEnd _ | .stepTimerExpiry _ | .targetChange _ _
  | .holdEnd _ _ | .pulseEnd _ _ | .character _ _ | .lowStopBit _ _ | .framing _ | .gap _ | .unknownKind _
  | .hello _ | .status _ | .setNotices _ | .resetPlan _ | .resetFull _ | .setLink _ | .defineStep _
  | .readStep _ | .eraseSteps _ | .readResults _ | .ackResults _ | .defineProfile _ | .readProfile _
  | .eraseProfile _ | .compute _ | .setProbe _ | .readProbes _ | .run _ | .pause _ | .resume _ | .abort _
  | .markStart _ | .markStop _ | .feed _ | .setFlag _ | .driveFlags _ | .startBit _ _ | .rxdReturnHigh _
  | .pinChange _ _ _ => False

/-! ### Laws that every state of a run keeps -/

/-- STEADY: the inverted level equals the probe level; PENDING: it differs (spec/02 R20). -/
def ProbeLine.consistent (p : ProbeLine) : Prop :=
  match p.state with
  | .steady => p.inverted = p.level
  | .pending _ => p.inverted ≠ p.level

/-- Every probe line is consistent (spec/02 R20). -/
def State.probesConsistent (s : State) : Prop := ∀ n : Fin 16, (s.probes[n]).consistent

/-- Every profile held is well formed, and every step record is well formed over the profiles held, under its own
number (spec/01 R2, R13; spec/04 R60, R74). -/
def State.tablesSound (s : State) : Prop :=
  (∀ n : Fin 14, ∀ p, s.profiles[n] = some p → p.wellFormed = true) ∧
    ∀ n : Fin 96, ∀ r, s.steps[n] = some r → r.number = n ∧ r.wellFormed s.widthAt = true

/-- How the units, the close reports and the step copy stand to the plan (spec/03 R34, spec/05 R80, R85, R87, R91). -/
structure State.unitsBound (s : State) : Prop where
  /-- A unit is other than IDLE only while the plan is CAPTURING or HELD and the current step names it. -/
  named : ∀ u : Fin 8, s.units[u] ≠ none → (s.seq.plan = .capturing ∨ s.seq.plan = .held) ∧ s.seq.namesUnit u = true
  /-- While a step is in progress its record stands in its slot, and the step copy is that record. -/
  copied : s.seq.plan = .settling ∨ s.seq.plan = .capturing ∨ s.seq.plan = .held →
    s.seq.stepCopy = s.steps[s.seq.step] ∧ s.seq.stepCopy ≠ none
  /-- While SETTLING no close report is there. -/
  fresh : s.seq.plan = .settling → ∀ j : Fin 8, s.seq.reports[j] = none
  /-- While CAPTURING or HELD every lane's unit is bound, and it is CLOSED exactly when its report is there. -/
  bound : s.seq.plan = .capturing ∨ s.seq.plan = .held → ∀ (r : StepRecord) (j : Fin 8) (l : Lane),
    s.seq.stepCopy = some r → r.lanes[j.val]? = some l →
    ∃ b, s.units[l.unit] = some b ∧ (b.phase = .closed ↔ s.seq.reports[j] ≠ none)
  /-- While HELD every unit of the step is CLOSED. -/
  closed : s.seq.plan = .held → ∀ (u : Fin 8) (b : Bound), s.units[u] = some b → b.phase = .closed

/-- Counts of one window: transitions at most the samples less 1, 0 while there is no sample (spec/03 R44, R45). -/
def countsFit (samples transitions : Nat) : Prop := transitions ≤ samples - 1 ∧ samples ≤ Config.max32

/-- The counts of a bound copy: they fit, no sample has been kept while the count is 0, and an ARMED unit has
counted none (spec/03 R35, R37, R38, R44). -/
def Bound.countsSound (b : Bound) : Prop :=
  countsFit b.samples b.transitions ∧ (b.samples = 0 → b.previous = none) ∧ (b.phase = .armed → b.samples = 0)

/-- The counts of every unit, close report and result record fit (spec/03 R44, R45; spec/06 R111). -/
def State.countsSound (s : State) : Prop :=
  (∀ u : Fin 8, ∀ b, s.units[u] = some b → b.countsSound) ∧
    (∀ i : Fin 8, ∀ c, s.seq.reports[i] = some c → countsFit c.samples c.transitions) ∧
    ∀ r ∈ s.queue.records, countsFit r.samples r.transitions

/-- At most 64 records, with consecutive sequence numbers that end at N - 1 (spec/06 R108). -/
def ResultQueue.sound (q : ResultQueue) : Prop :=
  q.records.length ≤ Config.queueCapacity ∧
    ∀ i, ∀ h : i < q.records.length, (q.records[i]).sequence = q.next - BitVec.ofNat 16 (q.records.length - i)

/-- A line with no hold end shows the target its stretcher took (spec/07 R125, R129). -/
def State.flagsSettled (s : State) : Prop :=
  ∀ n : Fin 4, (s.flags[n]).holdEnd = none → (s.flags[n]).output = (s.flags[n]).target

/-- On a line of a source that follows the plan, the units, the queue or a level, the latest target is the source value
with invert (spec/07 R125, R126). The pulse sources STEP_END and FAIL change their value by time. -/
def State.flagsFollow (s : State) : Prop :=
  ∀ n : Fin 4, (s.flags[n]).source ≠ .stepEnd → (s.flags[n]).source ≠ .fail →
    (s.flags[n]).latest = s.targetOf s.flags[n]

/-- While the plan is IDLE every pattern level equals its rest level (spec/07 R127). -/
def State.patternsRest (s : State) : Prop :=
  s.seq.plan = .idle → ∀ n : Fin 4, (s.flags[n]).patternLevel = (s.flags[n]).restLevel

/-- At most eight cache entries, at most one for each tag (spec/09 R159). -/
def Interpreter.cacheSound (i : Interpreter) : Prop :=
  i.cache.length ≤ Config.cacheCapacity ∧ (i.cache.map (·.tag)).Nodup

/-- The request queue and the reply queue hold no more than they may (spec/08 R147, R148; spec/09 R157). -/
def State.linkBounded (s : State) : Prop :=
  s.interp.requests.length ≤ Config.requestCapacity ∧ s.placesHeld ≤ Config.replyPlaces ∧
    s.refusalsWaiting ≤ Config.refusalPlaces

/-- While reset pending is set, the reply that brings the FULL reset about waits or is in flight (spec/09 R166). -/
def State.resetOwed (s : State) : Prop :=
  s.interp.resetPending = true →
    (∃ q ∈ s.tx.queue, q.attached = .fullReset) ∨ s.tx.inFlight.any (fun f => decide (f.attached = .fullReset)) = true

end Sys2Proof.Machine
end

