-- ==== Sys2Proof/Certificates/Slice0/Obligations.lean ====
section
/-! DEFINITION. The statements about the part: the whole machine, and then block by block. A request statement reads
"when the oldest frame that can be taken is this request, then ...": `Takes`, `answered` and `answeredOnly` are in
Safety.lean. A payload of a reply begins with the status code and the detail (spec/10 10.2, 10.3). -/

open Sys2Proof Sys2Proof.Machine

/-! ### The whole machine -/

/-- A step with a command in front runs exactly that command on the state with the queue's rest. The model's own
queue, notes/assumptions/2. -/
def Obligations.StepRunsFrontCommand : Prop :=
  ∀ (c : Instr) (rest : List Instr) (s : State),
    step { s with pending := c :: rest } = exec c { s with pending := rest }

/-- With no command waiting, a step idles exactly when the block owes nothing, and otherwise does one of the
happenings that come first. The model's own rule, notes/assumptions/2 and 3. -/
def Obligations.IdleStepDoesEarliestHappening : Prop :=
  ∀ s : State, s.pending = [] →
    (s.ownHappenings = [] → step s = .next s) ∧
    (s.ownHappenings ≠ [] → ∃ d ∈ s.ownHappenings,
      (∀ e ∈ s.ownHappenings, dueAt s.now d ≤ dueAt s.now e) ∧
      step s = exec (d.2 (dueAt s.now d)) { s with choices := s.choices + 1 })

/-- Every command completes, from every state; time never goes back, and the waiting commands stand as before. That
instants are ticks and every command carries its own, that the commands wait in a queue, and that free choices are
counted, are the model's choices (notes/assumptions/1, 2 and 3). That no command stops the part, and that one
whose condition does not hold changes nothing, is read from the spec (notes/assumptions/21 and 4). -/
def Obligations.EveryCommandCompletes : Prop :=
  ∀ (c : Instr) (s : State), ∃ s', exec c s = .next s' ∧ s'.now = max s.now (instantOf c) ∧
    s'.pending = s.pending ∧ s'.choices = s.choices

/-! ### Resets of the part (spec/09 R170, R174; spec/02 R31; spec/08 R155) -/

/-- POWER_ON gives every block its state after power-on, and the START notice POWER_UP begins to leave. RESET_LINE,
when nRESET was low, gives the same with the pins as they stand and the reason RESET_LINE; when it was not low,
nothing happens. The step start time 0, the two own fields of a flag line, nRESET high at POWER_ON, and RESET_LINE
without a low nRESET are the model's choices (notes/assumptions/18, 13, 17 and 4). -/
def Obligations.ResetsRestartPart : Prop :=
  (∀ (t : Nat) (pins : BitVec 16) (rxdLow : Bool) (s : State), ∃ s',
     exec (.powerOn t pins rxdLow) s = .next s' ∧ s'.nResetLow = false ∧
     freshBlocks (fun n => pins.getLsbD n.val) s' ∧ freshInterpreter s' ∧
     s'.rx = { state := .hunt, rate := .b115200, gapLimit := 25, gapFrom := none, character := none,
               low := if rxdLow then .timed s'.now else .untimed } ∧
     startBegins 0 s') ∧
  (∀ (t : Nat) (rxdLow : Bool) (s : State),
     (s.nResetLow = true → ∃ s', exec (.resetLine t rxdLow) s = .next s' ∧ s'.nResetLow = false ∧
       freshBlocks (fun n => (s.probes[n]).pin) s' ∧ freshInterpreter s' ∧
       s'.rx = { state := .hunt, rate := .b115200, gapLimit := 25, gapFrom := none, character := none,
                 low := if rxdLow then .timed s'.now else .untimed } ∧
       startBegins 1 s') ∧
     (s.nResetLow = false → exec (.resetLine t rxdLow) s = .next (s.advance t)))

/-- While nRESET is held low the flag lines are low, TXD idles, RXD is not read, nothing is taken, and a pin change
gives no edge and no mark. That the other blocks take their reset values already then, and that a probe level
follows its pin, is the model's choice, notes/assumptions/7. That nothing happens where the condition of a
happening does not hold is read from the spec (notes/assumptions/4). -/
def Obligations.ResetLineHoldsPartSilent : Prop :=
  ∀ (t : Nat) (s : State),
    (s.nResetLow = false → ∃ s', exec (.resetLineAssert t) s = .next s' ∧ s'.nResetLow = true ∧
      freshBlocks (fun n => (s.probes[n]).pin) s' ∧ freshInterpreter s' ∧ s'.rx = Receiver.afterReset ∧
      s'.tx.queue = [] ∧ s'.tx.inFlight = none ∧ s'.tx.choose = none) ∧
    (s.nResetLow = true →
      exec (.resetLineAssert t) s = .next (s.advance t) ∧ s.mayTake = false ∧ s.arbitrate = s ∧
      (∀ g, exec (.startBit t g) s = .next (s.advance t)) ∧
      ∀ (n : Fin 16) (b : Bool), ∃ s', exec (.pinChange t n b) s = .next s' ∧ unchangedBut [.probes] s s' ∧
        s'.probes[n] = (if (s.probes[n]).pin = b then s.probes[n]
          else { s.probes[n] with pin := b, level := b ^^ (s.probes[n]).invert, state := .steady }) ∧
        ∀ m : Fin 16, m ≠ n → s'.probes[m] = s.probes[m])

/-- Every invariant stated below holds right after reset. -/
def Obligations.ResetStateMeetsInvariants : Prop :=
  State.reset.probesConsistent ∧ State.reset.tablesSound ∧ State.reset.unitsBound ∧ State.reset.countsSound ∧
    State.reset.queue.sound ∧ State.reset.flagsSettled ∧ State.reset.flagsFollow ∧ State.reset.patternsRest ∧
    State.reset.interp.cacheSound ∧ State.reset.linkBounded ∧ State.reset.resetOwed

/-! ### Invariants that every step keeps -/

/-- STEADY and PENDING say how the inverted level and the probe level of a line stand to one another (R20). -/
def Obligations.StepKeepsProbesConsistent : Prop :=
  ∀ s s' : State, s.probesConsistent → step s = .next s' → s'.probesConsistent

/-- Every profile and every step record held is one that DEFINE PROFILE and DEFINE STEP accept (R2, R13, R60, R74). -/
def Obligations.StepKeepsTablesSound : Prop :=
  ∀ s s' : State, s.tablesSound → step s = .next s' → s'.tablesSound

/-- A unit is other than IDLE only while the plan is CAPTURING or HELD and the step names it; while it is, every unit
of the step is bound, CLOSED exactly when its close report is there, and in HELD every unit of the step is CLOSED.
The step copy is the record of the current step, and in SETTLING no report is there (R34; spec/05 R84, R87, R91). -/
def Obligations.StepKeepsUnitsBound : Prop :=
  ∀ s s' : State, s.tablesSound → s.unitsBound → step s = .next s' → s'.unitsBound

/-- In units, close reports and records, a transition count never exceeds the sample count less 1 (R44, R45, R111). -/
def Obligations.StepKeepsCountsSound : Prop :=
  ∀ s s' : State, s.countsSound → step s = .next s' → s'.countsSound

/-- The Result Queue holds at most 64 records with consecutive sequence numbers that end at N - 1 (R108). -/
def Obligations.StepKeepsQueueSound : Prop :=
  ∀ s s' : State, s.queue.sound → step s = .next s' → s'.queue.sound

/-- A flag line with no hold shows its target as the stretcher last took it (R125, R129). The latest target of a line
of a level source, the last that waits or else the one taken, is its source value with invert (R125, R126, R131,
R132). While the plan is IDLE every pattern level equals its rest level (R127). That a line holds the target its
stretcher last took, and the changes that wait, is the model's choice (notes/assumptions/13), and so is what SET
FLAG and DRIVE FLAGS do to changes that wait (notes/assumptions/23). -/
def Obligations.StepKeepsFlagLinesSound : Prop :=
  (∀ s s' : State, s.flagsSettled → step s = .next s' → s'.flagsSettled) ∧
  (∀ s s' : State, s.flagsFollow → step s = .next s' → s'.flagsFollow) ∧
  (∀ s s' : State, s.patternsRest → step s = .next s' → s'.patternsRest)

/-- At most eight cache entries with distinct tags, at most four requests, two replies and two refusals (R147, R148,
R157, R159). While reset pending is set, the reply whose last byte applies the FULL reset waits or is in flight
(R166). -/
def Obligations.StepKeepsLinkBounded : Prop :=
  (∀ s s' : State, s.interp.cacheSound → s.linkBounded → step s = .next s' →
     s'.interp.cacheSound ∧ s'.linkBounded) ∧
  (∀ s s' : State, s.resetOwed → step s = .next s' → s'.resetOwed)

/-! ### Signature arithmetic (spec/01) -/

/-- A serial fold in direction LEFT, stage by stage (R5). -/
def Obligations.LeftFoldByStage : Prop :=
  ∀ (p : Profile) (r : Word32) (d : Bool), p.wellFormed = true → p.direction = .left → r.toNat < 2 ^ p.width →
    (∀ j, (serialFold p r d).getLsbD j =
      (decide (j < p.width) &&
        ((decide (0 < j) && r.getLsbD (j - 1)) ^^ ((r.getLsbD (p.width - 1) ^^ d) && p.poly.getLsbD j)))) ∧
    (serialFold p r d).getLsbD 0 = (r.getLsbD (p.width - 1) ^^ d)

/-- A serial fold in direction RIGHT, stage by stage (R6). -/
def Obligations.RightFoldByStage : Prop :=
  ∀ (p : Profile) (r : Word32) (d : Bool), p.wellFormed = true → p.direction = .right → r.toNat < 2 ^ p.width →
    (∀ j, (serialFold p r d).getLsbD j =
      (decide (j < p.width) &&
        ((decide (j + 1 < p.width) && r.getLsbD (j + 1)) ^^
          ((r.getLsbD 0 ^^ d) && p.poly.getLsbD (p.width - 1 - j))))) ∧
    (serialFold p r d).getLsbD (p.width - 1) = (r.getLsbD 0 ^^ d)

/-- A parallel fold: one serial fold with input 0, then input j into stage j (LEFT) or w - 1 - j (RIGHT) (R7). Every
fold keeps a residue below 2^w, and so does the final mask (R2, R10). -/
def Obligations.ParallelFoldByStage : Prop :=
  (∀ (p : Profile) (r : Word32) (inputs : List Bool), p.wellFormed = true → r.toNat < 2 ^ p.width →
     inputs.length ≤ p.width → ∀ j, j < p.width →
     (parallelFold p r inputs).getLsbD j =
       ((serialFold p r false).getLsbD j ^^
         inputs.getD (if p.direction = .left then j else p.width - 1 - j) false)) ∧
  (∀ (p : Profile) (r : Word32), p.wellFormed = true → r.toNat < 2 ^ p.width →
     (∀ d, (serialFold p r d).toNat < 2 ^ p.width) ∧
     (∀ inputs : List Bool, inputs.length ≤ p.width → (parallelFold p r inputs).toNat < 2 ^ p.width) ∧
     (∀ bytes, (foldBytes p r bytes).toNat < 2 ^ p.width) ∧
     (reportedResidue p r).toNat < 2 ^ p.width)

/-- The known answers of the fixed profiles, in any division of the bytes into two parts (R11). -/
def Obligations.FixedProfilesKnownAnswers : Prop :=
  ∀ a b : List Byte, a ++ b = [0x31, 0x32, 0x33, 0x34, 0x35, 0x36, 0x37, 0x38, 0x39] →
    reportedResidue fixed14 (foldBytes fixed14 (foldBytes fixed14 0xFFFF a) b) = 0x29B1 ∧
    reportedResidue fixed15 (foldBytes fixed15 (foldBytes fixed15 0xFFFFFFFF a) b) = 0xCBF43926

/-! ### Probe lines (spec/02) -/

/-- A pin change on a consistent line: with F = 0 an edge at once, with F above 0 a pending change; a pending change
that goes back is dropped before its F has run, and a level that has held for exactly F is seen, with its edge,
before the line is pending again (R21, R22, R24, R25, R27). A pending level that has held for F is accepted with
one edge; before that, and on a STEADY line, nothing happens (R22 row 4, R24, R25, R27). An edge is delivered to a
unit that is ARMED or OPEN and whose lane names the line, once, and to no other (R25). That nothing happens where
the condition of a happening does not hold is read from the spec (notes/assumptions/4). A FILTER_EXPIRY or
PIN_CHANGE named after its level has held for F acts late (notes/assumptions/5). The list of edges that wait at a
unit is the model's own (notes/assumptions/14). -/
def Obligations.ProbeEdgesFollowFilter : Prop :=
  (∀ (t : Nat) (n : Fin 16) (b : Bool) (s : State), s.nResetLow = false → (s.probes[n]).consistent →
     ((s.probes[n]).pin = b → exec (.pinChange t n b) s = .next (s.advance t)) ∧
     ((s.probes[n]).pin ≠ b → ∃ s', exec (.pinChange t n b) s = .next s' ∧
       unchangedBut [.probes, .units] s s' ∧ (∀ m : Fin 16, m ≠ n → s'.probes[m] = s.probes[m]) ∧
       ((s.probes[n]).state = .steady → (s.probes[n]).filter = 0 →
         s'.probes[n] = { s.probes[n] with pin := b, level := !(s.probes[n]).level, mark := true } ∧
         ∀ u : Fin 8, s'.units[u] = (s.units[u]).map
           (Bound.deliver { line := n, kind := if (s.probes[n]).level then .falling else .rising })) ∧
       ((s.probes[n]).state = .steady → 0 < (s.probes[n]).filter →
         s'.probes[n] = { s.probes[n] with pin := b, state := .pending s'.now } ∧ s'.units = s.units) ∧
       ∀ start, (s.probes[n]).state = .pending start →
         (max s.now t < start + micros (s.probes[n]).filter →
           s'.probes[n] = { s.probes[n] with pin := b, state := .steady } ∧ s'.units = s.units) ∧
         (start + micros (s.probes[n]).filter ≤ max s.now t → 0 < (s.probes[n]).filter →
           s'.probes[n] = { s.probes[n] with
             pin := b, level := !(s.probes[n]).level, mark := true, state := .pending s'.now } ∧
           ∀ u : Fin 8, s'.units[u] = (s.units[u]).map
             (Bound.deliver { line := n, kind := if (s.probes[n]).level then .falling else .rising })))) ∧
  (∀ (t : Nat) (n : Fin 16) (s : State),
     ((s.probes[n]).state = .steady → exec (.filterExpiry t n) s = .next (s.advance t)) ∧
     ∀ start, (s.probes[n]).state = .pending start →
       (max s.now t < start + micros (s.probes[n]).filter → exec (.filterExpiry t n) s = .next (s.advance t)) ∧
       (start + micros (s.probes[n]).filter ≤ max s.now t → (s.probes[n]).consistent →
         ∃ s', exec (.filterExpiry t n) s = .next s' ∧ unchangedBut [.probes, .units] s s' ∧
           (∀ m : Fin 16, m ≠ n → s'.probes[m] = s.probes[m]) ∧
           s'.probes[n] = { s.probes[n] with level := !(s.probes[n]).level, state := .steady, mark := true } ∧
           ∀ u : Fin 8, s'.units[u] = (s.units[u]).map
             (Bound.deliver { line := n, kind := if (s.probes[n]).level then .falling else .rising }))) ∧
  (∀ (e : ProbeEdge) (b : Bound),
     (b.phase = .closed → b.deliver e = b) ∧
     (b.lane.mode = .host → (∀ x, b.lane.start ≠ .edge x) → (∀ x, b.lane.stop ≠ .edge x) → b.deliver e = b) ∧
     (b.phase ≠ .closed → ∀ p, (b.lane.mode = .serial p ∨ b.lane.mode = .parallel p) →
       ((p.data.getLsbD e.line.val = true ∨ p.clock.line = e.line ∨ (∃ q, p.qualifier = some q ∧ q.line = e.line) ∨
           (∃ x, b.lane.start = .edge x ∧ x.line = e.line) ∨ (∃ x, b.lane.stop = .edge x ∧ x.line = e.line)) →
         b.deliver e = { b with inbox := b.inbox ++ [e] }) ∧
       (¬(p.data.getLsbD e.line.val = true ∨ p.clock.line = e.line ∨ (∃ q, p.qualifier = some q ∧ q.line = e.line) ∨
           (∃ x, b.lane.start = .edge x ∧ x.line = e.line) ∨ (∃ x, b.lane.stop = .edge x ∧ x.line = e.line)) →
         b.deliver e = b)))

/-- SET PROBE: MALFORMED, PLAN_ACTIVE, or every named line takes the settings and its timing restarts (R28, R29). READ
PROBES reports the sixteen probe levels and marks and clears the marks; it changes nothing else (R30). -/
def Obligations.ProbeRequestsSetAndReport : Prop :=
  (∀ (t : Nat) (s : State) (f : Frame) (rest : List Frame), Takes s f rest → f.kind = 0x0F →
     (f.payload.length ≠ 4 → ∃ s', exec (.setProbe t) s = .next s' ∧ answeredOnly f rest [2, 0] s s') ∧
     ∀ m0 m1 o w : Byte, f.payload = [m0, m1, o, w] →
       (s.seq.plan ≠ .idle → ∃ s', exec (.setProbe t) s = .next s' ∧ answeredOnly f rest [4, 0] s s') ∧
       (s.seq.plan = .idle → ∃ s', exec (.setProbe t) s = .next s' ∧ answered f rest [0, 0] s s' ∧
         sameSettings s s' ∧ sameNotices s s' ∧ unchangedBut [.probes, .units, .interp, .tx] s s' ∧
         ((∀ u : Fin 8, s.units[u] = none) → s'.units = s.units) ∧
         ∀ n : Fin 16, s'.probes[n] =
           if (m0.toNat + 256 * m1.toNat).testBit n.val then
             let q : ProbeLine := { s.probes[n] with invert := o.getLsbD 0, filter := w.toNat }
             if (q.pin ^^ q.invert) = q.level then { q with state := .steady }
             else if w.toNat = 0 then { q with level := !q.level, mark := true, state := .steady }
             else { q with state := .pending s'.now }
           else s.probes[n])) ∧
  (∀ (t : Nat) (s : State) (f : Frame) (rest : List Frame), Takes s f rest → f.kind = 0x10 →
     (f.payload ≠ [] → ∃ s', exec (.readProbes t) s = .next s' ∧ answeredOnly f rest [2, 0] s s') ∧
     (f.payload = [] → ∃ s' l0 l1 k0 k1, exec (.readProbes t) s = .next s' ∧
       answered f rest [0, 0, l0, l1, k0, k1] s s' ∧ sameSettings s s' ∧ sameNotices s s' ∧
       unchangedBut [.probes, .interp, .tx] s s' ∧
       ∀ n : Fin 16, (l0.toNat + 256 * l1.toNat).testBit n.val = (s.probes[n]).level ∧
         (k0.toNat + 256 * k1.toNat).testBit n.val = (s.probes[n]).mark ∧
         s'.probes[n] = { s.probes[n] with mark := false }))

/-! ### Compactor units (spec/03) -/

/-- An edge received while ARMED opens the window when it is the start edge, and has no effect otherwise (R38, R37).
The list of edges that wait at a unit is the model's own (notes/assumptions/14). -/
def Obligations.ArmedUnitOpensOnStartEdge : Prop :=
  ∀ (t : Nat) (s : State) (u : Fin 8) (b left : Bound) (e : ProbeEdge), Receives s u b e left → b.phase = .armed →
    ∃ s', exec (.edgeReceipt t u e.line e.kind) s = .next s' ∧
      unitChanged u (if b.lane.start = .edge { line := e.line, edge := e.kind } then
          { left with phase := .opened, openedAt := some s'.now, residue := b.profile.seed, previous := none }
        else left) s s'

/-- A qualified clock edge at an OPEN unit, when it brings no close, folds one sample and counts it (R39 to R42, R44,
R45); every other edge that is not the stop edge has no effect (R39, R40). The list of edges that wait at a unit
is the model's own (notes/assumptions/14). -/
def Obligations.OpenUnitFoldsQualifiedClockEdge : Prop :=
  ∀ (t : Nat) (s : State) (u : Fin 8) (b left : Bound) (e : ProbeEdge) (p : ProbeInput) (sample : List Bool),
    Receives s u b e left → b.phase = .opened →
    (b.lane.mode = .parallel p ∨ (b.lane.mode = .serial p ∧ sample.length = 1)) →
    sample = ((List.finRange 16).filter fun n => p.data.getLsbD n.val).map (fun n => (s.probes[n]).level) →
    b.lane.stop ≠ .edge { line := e.line, edge := e.kind } →
    ((p.clock = { line := e.line, edge := e.kind } ∧ ∀ q, p.qualifier = some q → (s.probes[q.line]).level = q.high) →
      b.lane.stop ≠ .count (min (2 ^ 32 - 1) (b.samples + 1)) →
      b.lane.sampleLimit ≠ some (min (2 ^ 32 - 1) (b.samples + 1)) →
      ∃ s', exec (.edgeReceipt t u e.line e.kind) s = .next s' ∧
        unitChanged u { left with
          residue := if b.lane.mode = .parallel p then parallelFold b.profile b.residue sample
            else serialFold b.profile b.residue (sample.headD false)
          transitions := if b.previous = none ∨ b.previous = some sample then b.transitions
            else min (2 ^ 32 - 2) (b.transitions + 1)
          previous := some sample
          samples := min (2 ^ 32 - 1) (b.samples + 1) } s s') ∧
    (¬(p.clock = { line := e.line, edge := e.kind } ∧
        ∀ q, p.qualifier = some q → (s.probes[q.line]).level = q.high) →
      ∃ s', exec (.edgeReceipt t u e.line e.kind) s = .next s' ∧ unitChanged u left s s')

/-- The stop edge closes an OPEN window with reason STOP and takes no sample, even where it is the clock edge as well
(R39, R46, R47). The sample that reaches the stop count closes the window STOP, and the one that reaches the
sample limit closes it LIMIT, the stop count first (R45). The list of edges that wait at a unit is the model's own
(notes/assumptions/14). -/
def Obligations.StopsCloseWindow : Prop :=
  (∀ (t : Nat) (s : State) (u i : Fin 8) (b left : Bound) (e : ProbeEdge) (p : ProbeInput),
     Receives s u b e left → b.phase = .opened → (b.lane.mode = .serial p ∨ b.lane.mode = .parallel p) →
     b.lane.stop = .edge { line := e.line, edge := e.kind } → ClosesEarly s u i →
     ∃ s', exec (.edgeReceipt t u e.line e.kind) s = .next s' ∧ closedEarly u i .stop left s s' ∧
       (∀ v : Fin 8, v ≠ u → s'.units[v] = s.units[v]) ∧ unchangedBut [.units, .seq, .flags, .tx] s s' ∧
       linesNoted { s with now := s'.now } s' (fun m => s.flags[m])) ∧
  (∀ (s : State) (b c : Bound) (sample : List Bool), c = b.takeSample sample →
     c.samples = min (2 ^ 32 - 1) (b.samples + 1) ∧
     (b.lane.stop = .count c.samples → c.countClose = some .stop) ∧
     (b.lane.stop ≠ .count c.samples → b.lane.sampleLimit = some c.samples → c.countClose = some .limit) ∧
     (b.lane.stop ≠ .count c.samples → b.lane.sampleLimit ≠ some c.samples → c.countClose = none) ∧
     ∀ (t : Nat) (u i : Fin 8) (left : Bound) (e : ProbeEdge) (p : ProbeInput) (reason : CloseReason),
       Receives s u b e left → b.phase = .opened → (b.lane.mode = .serial p ∨ b.lane.mode = .parallel p) →
       b.lane.stop ≠ .edge { line := e.line, edge := e.kind } → p.clock = { line := e.line, edge := e.kind } →
       (∀ q, p.qualifier = some q → (s.probes[q.line]).level = q.high) →
       sample = ((List.finRange 16).filter fun n => p.data.getLsbD n.val).map (fun n => (s.probes[n]).level) →
       c.countClose = some reason → ClosesEarly s u i →
       ∃ s', exec (.edgeReceipt t u e.line e.kind) s = .next s' ∧
         closedEarly u i reason { c with inbox := left.inbox } s s' ∧
         (∀ v : Fin 8, v ≠ u → s'.units[v] = s.units[v]) ∧ unchangedBut [.units, .seq, .flags, .tx] s s' ∧
         linesNoted { s with now := s'.now } s' (fun m => s.flags[m]))

/-- MARK START: MALFORMED, PLAN_IDLE, or OK with the mask of the units that were named, ARMED and of start kind HOST;
their windows open, and no other unit is changed (R53, R54, R37). That a refused MARK is taken by this row is the
model's choice (notes/assumptions/8). -/
def Obligations.MarkStartOpensHostWindows : Prop :=
  ∀ (t : Nat) (s : State) (f : Frame) (rest : List Frame), Takes s f rest → f.kind = 0x15 →
    (∀ m k : Byte, f.payload = [m, k] → 1 < k.toNat →
      ∃ s', exec (.markStart t) s = .next s' ∧ answeredOnly f rest [2, 0] s s') ∧
    (f.payload.length ≠ 2 → ∃ s', exec (.markStart t) s = .next s' ∧ answeredOnly f rest [2, 0] s s') ∧
    ∀ m : Byte, f.payload = [m, 0] →
      (s.seq.plan = .idle ∨ s.seq.plan = .paused →
        ∃ s', exec (.markStart t) s = .next s' ∧ answeredOnly f rest [5, 0] s s') ∧
      (s.seq.plan ≠ .idle → s.seq.plan ≠ .paused → ∃ s' a, exec (.markStart t) s = .next s' ∧
        answered f rest [0, 0, a] s s' ∧ sameSettings s s' ∧ sameNotices s s' ∧
        unchangedBut [.units, .flags, .interp, .tx] s s' ∧
        linesNoted { s with now := s'.now } s' (fun n => s.flags[n]) ∧
        ∀ u : Fin 8,
          (a.getLsbD u.val = true ↔ m.getLsbD u.val = true ∧
            ∃ b, s.units[u] = some b ∧ b.phase = .armed ∧ b.lane.start = .host) ∧
          (a.getLsbD u.val = false → s'.units[u] = s.units[u]) ∧
          (a.getLsbD u.val = true → ∀ b, s.units[u] = some b → s'.units[u] = some { b with
            phase := .opened, openedAt := some s'.now, residue := b.profile.seed, previous := none }))

/-- MARK STOP: PLAN_IDLE, or OK with the mask of the units that were named, OPEN and of stop kind HOST; while one lane
of the step stays without a report, each of them closes STOP and its report is kept (R53, R54, R47, R87). -/
def Obligations.MarkStopClosesHostWindows : Prop :=
  ∀ (t : Nat) (s : State) (f : Frame) (rest : List Frame) (m : Byte), Takes s f rest → f.kind = 0x15 →
    f.payload = [m, 1] →
    (s.seq.plan = .idle ∨ s.seq.plan = .paused →
      ∃ s', exec (.markStop t) s = .next s' ∧ answeredOnly f rest [5, 0] s s') ∧
    (s.seq.plan ≠ .idle → s.seq.plan ≠ .paused → ∃ s' a, exec (.markStop t) s = .next s' ∧
      answered f rest [0, 0, a] s s' ∧ sameSettings s s' ∧
      (∀ u : Fin 8, a.getLsbD u.val = true ↔ m.getLsbD u.val = true ∧
        ∃ b, s.units[u] = some b ∧ b.phase = .opened ∧ b.lane.stop = .host) ∧
      ∀ (r : StepRecord) (j : Fin 8) (l : Lane), s.seq.stepCopy = some r → r.lanes[j.val]? = some l →
        s.seq.reports[j] = none → a.getLsbD l.unit.val = false →
        unchangedBut [.units, .seq, .flags, .interp, .tx] s s' ∧ sameNotices s s' ∧
        linesNoted { s with now := s'.now } s' (fun n => s.flags[n]) ∧
        s'.seq.reports[j] = none ∧ { s'.seq with reports := s.seq.reports } = s.seq ∧
        (∀ i : Fin 8, (∀ u : Fin 8, a.getLsbD u.val = true → s.seq.laneOf u ≠ some i.val) →
          s'.seq.reports[i] = s.seq.reports[i]) ∧
        ∀ u : Fin 8,
          (a.getLsbD u.val = false → s'.units[u] = s.units[u]) ∧
          (a.getLsbD u.val = true → ∀ b, s.units[u] = some b →
            s'.units[u] = some { b with
              phase := .closed, reason := some .stop, duration := windowDuration s'.now b, inbox := [] } ∧
            ∀ i : Fin 8, s.seq.laneOf u = some i.val → s'.seq.reports[i] = some
              { unit := u, reason := .stop, residue := b.residue ^^^ b.profile.finalMask, samples := b.samples,
                transitions := b.transitions, duration := windowDuration s'.now b }))

/-- FEED is checked in the order of R55; a refusal but MALFORMED carries 0 bytes and the state of the unit. An
accepted FEED folds its bytes bit by bit, each bit one sample, compared and counted; when none reaches the stop
count or the sample limit and FINAL is clear the window stays OPEN. Where a bit reaches one, or FINAL is set, the
window closes after that bit, with the whole bytes folded in the reply (R56, R57, R43, R44, R45, R9). -/
def Obligations.FeedFoldsBytes : Prop :=
  (∀ (t : Nat) (s : State) (f : Frame) (rest : List Frame), Takes s f rest → f.kind = 0x16 →
     (f.payload.length < 2 ∨ 234 < f.payload.length →
       ∃ s', exec (.feed t) s = .next s' ∧ answeredOnly f rest [2, 0] s s') ∧
     ∀ (n o : Byte) (bytes : List Byte), f.payload = n :: o :: bytes → bytes.length ≤ 232 →
       (8 ≤ n.toNat → ∃ s', exec (.feed t) s = .next s' ∧ answeredOnly f rest [3, 0, 0, 0] s s') ∧
       ∀ u : Fin 8, n.toNat = u.val →
         (s.seq.plan ≠ .capturing ∨ s.units[u] = none ∨
           (∃ b, s.units[u] = some b ∧ (b.phase ≠ .opened ∨ b.lane.mode ≠ .host))) →
         ∃ s', exec (.feed t) s = .next s' ∧ answeredOnly f rest [0x0D, 0, 0,
           match s.units[u] with
           | none => 0
           | some b => match b.phase with
             | .armed => 1
             | .opened => 2
             | .closed => 3] s s') ∧
  (∀ (t : Nat) (s : State) (f : Frame) (rest : List Frame) (u : Fin 8) (n o : Byte) (bytes : List Byte) (b : Bound)
     (bits : List Bool),
     Takes s f rest → f.kind = 0x16 → f.payload = n :: o :: bytes → bytes.length ≤ 232 → n.toNat = u.val →
     s.seq.plan = .capturing → s.units[u] = some b → b.phase = .opened → b.lane.mode = .host →
     bits = bitsOf b.profile.byteOrder bytes →
     (bits.foldl sampledBit b).residue = foldBytes b.profile b.residue bytes ∧
     ((∀ m, 1 ≤ m → m ≤ bits.length → ¬((bits.take m).foldl sampledBit b).reached) → o.getLsbD 0 = false →
       ∃ s', exec (.feed t) s = .next s' ∧ answered f rest [0, 0, BitVec.ofNat 8 bytes.length, 2] s s' ∧
         sameSettings s s' ∧ sameNotices s s' ∧ s'.units[u] = some (bits.foldl sampledBit b) ∧
         (∀ v : Fin 8, v ≠ u → s'.units[v] = s.units[v]) ∧ unchangedBut [.units, .interp, .tx] s s') ∧
     ∀ (k : Nat) (c : Bound) (reason : CloseReason) (i : Fin 8), FeedCloses b bits (o.getLsbD 0) k c reason →
       ClosesEarly s u i → ∃ s', exec (.feed t) s = .next s' ∧
         answered f rest [0, 0, BitVec.ofNat 8 (k / 8), 3] s s' ∧ sameSettings s s' ∧ sameNotices s s' ∧
         closedEarly u i reason c s s' ∧ (∀ v : Fin 8, v ≠ u → s'.units[v] = s.units[v]) ∧
         unchangedBut [.units, .seq, .flags, .interp, .tx] s s' ∧
         linesNoted { s with now := s'.now } s' (fun m => s.flags[m]))

/-! ### The Plan Sequencer (spec/05) -/

/-- RUN is checked in the order of R82. An accepted RUN sets the run's range and counters, starts the run clock at 0
and starts the lowest defined step of the range by R84; the plan condition becomes RUNNING (R82, R84, R85, R104). -/
def Obligations.RunStartsLowestDefinedStep : Prop :=
  (∀ (t : Nat) (s : State) (f : Frame) (rest : List Frame), Takes s f rest → f.kind = 0x11 →
     (f.payload.length ≠ 4 → ∃ s', exec (.run t) s = .next s' ∧ answeredOnly f rest [2, 0] s s') ∧
     ∀ a b l0 l1 : Byte, f.payload = [a, b, l0, l1] →
       (s.seq.plan ≠ .idle → ∃ s', exec (.run t) s = .next s' ∧ answeredOnly f rest [4, 0] s s') ∧
       (s.seq.plan = .idle → b.toNat < a.toNat ∨ 95 < b.toNat →
         ∃ s', exec (.run t) s = .next s' ∧ answeredOnly f rest [3, 0] s s') ∧
       (s.seq.plan = .idle → a.toNat ≤ b.toNat → b.toNat ≤ 95 →
         (∀ n : Fin 96, a.toNat ≤ n.val → n.val ≤ b.toNat → s.steps[n] = none) →
         ∃ s', exec (.run t) s = .next s' ∧ answeredOnly f rest [0x0B, 0] s s')) ∧
  (∀ (t : Nat) (s : State) (f : Frame) (rest : List Frame) (a b l0 l1 : Byte) (n : Fin 96) (r : StepRecord),
     Takes s f rest → f.kind = 0x11 → f.payload = [a, b, l0, l1] → s.seq.plan = .idle → a.toNat ≤ n.val →
     n.val ≤ b.toNat → b.toNat ≤ 95 → (∀ m : Fin 96, a.toNat ≤ m.val → m < n → s.steps[m] = none) →
     s.steps[n] = some r → r.wellFormed s.widthAt = true →
     ∃ s', exec (.run t) s = .next s' ∧ answered f rest [0, 0, BitVec.ofNat 8 n.val] s s' ∧ sameSettings s s' ∧
       sameNoticesButPlan s s' ∧ planNoticed s s' ∧ unchangedBut [.seq, .units, .flags, .interp, .tx] s s' ∧
       stepStarted r 0 s s' ∧ s'.seq.runFirst.val = a.toNat ∧ s'.seq.runLast.val = b.toNat ∧
       s'.seq.loopCount = l0.toNat + 256 * l1.toNat ∧ s'.seq.iteration = 0 ∧ s'.seq.step = n ∧
       s'.seq.attempt = 0 ∧ s'.seq.pausePending = false ∧ s'.seq.lastOutcome = none ∧
       s'.seq.runClockFrom = some s'.now ∧ s'.seq.heldVerdict = s.seq.heldVerdict)

/-- The end of the settle time arms the units of the step and starts the step timer; an earlier instant does nothing
(R85, R36). The expiry of the step timer closes every ARMED unit NO_START and every OPEN one TIME_LIMIT, and the
last close ends the step; with no room for its records the plan is HELD with verdict FAULT. A CLOSED unit stands
(R86, R49, R87, R88, R91). That nothing happens where the condition of a happening does not hold is read from the
spec (notes/assumptions/4). A timer named late runs out late (notes/assumptions/5). The order of the closes of one
expiry, lane order, is the model's choice (notes/assumptions/26), and so is the list of target changes
(notes/assumptions/13). -/
def Obligations.TimersCarryStepOn : Prop :=
  (∀ (t : Nat) (s : State) (e : Nat), s.seq.plan = .settling → s.seq.settleEndAt = some e →
     (max s.now t < e → exec (.settleEnd t) s = .next (s.advance t)) ∧
     (e ≤ max s.now t → ∀ r, s.seq.stepCopy = some r → r.wellFormed s.widthAt = true →
       ∃ s', exec (.settleEnd t) s = .next s' ∧ capturing r s s' ∧ unchangedBut [.units, .seq, .flags, .tx] s s' ∧
         linesNoted { s with now := s'.now } s' (fun n => s.flags[n]) ∧
         s'.seq = { s.seq with plan := .capturing, settleEndAt := none,
                               stepTimerAt := if r.timeLimit = 0 then none else some (s'.now + millis r.timeLimit) })) ∧
  (∀ (t : Nat) (s : State) (e : Nat), s.seq.plan = .capturing → s.seq.stepTimerAt = some e →
     (max s.now t < e → exec (.stepTimerExpiry t) s = .next (s.advance t)) ∧
     (e ≤ max s.now t → ∀ (r : StepRecord) (why : Fin 8 → Option CloseReason) (x : State),
       why = (fun u => (s.units[u]).bind fun b =>
         if b.phase = .armed then some .noStart else if b.phase = .opened then some .timeLimit else none) →
       ClosesLast s r why → x = ({ s with now := max s.now t } : State).withClosed why →
       ∃ s', exec (.stepTimerExpiry t) s = .next s' ∧ stepEnded x s' ∧
         unchangedBut [.units, .seq, .queue, .flags, .tx] s s' ∧
         (∀ n : Fin 4, (s.flags[n]).source ≠ .window → s'.flags[n] =
           if ({ s with now := s'.now } : State).targetOf s.flags[n] = s'.targetOf x.endStep.flags[n]
           then x.endStep.flags[n] else (x.endStep.flags[n]).note (s'.targetOf x.endStep.flags[n])) ∧
         (s.tx.inFlight ≠ none → endNoticed x s s') ∧
         (64 < s.queue.records.length + r.lanes.length →
           s'.seq = { x.seq with plan := .held, stepTimerAt := none, heldVerdict := some .fault } ∧
             s'.units = x.units ∧ s'.queue = s.queue ∧
             linesNoted { s with now := s'.now } s' (fun n => s.flags[n]))))

/-- The lane verdict (R88). The step verdict (R89). -/
def Obligations.VerdictsFollowCriteria : Prop :=
  (∀ (l : Lane) (c : CloseReport),
     (c.reason ≠ .stop → laneVerdict l c = .fault) ∧
     (c.reason = .stop → l.expectedResidue = none → l.expectedCount = none → laneVerdict l c = .unchecked) ∧
     (c.reason = .stop → (l.expectedResidue ≠ none ∨ l.expectedCount ≠ none) →
       (laneVerdict l c = .pass ↔ (∀ x, l.expectedResidue = some x → c.residue = x) ∧
         ∀ g, l.expectedCount = some g → g.min ≤ c.samples ∧ c.samples ≤ g.max) ∧
       (laneVerdict l c = .fail ↔ ¬((∀ x, l.expectedResidue = some x → c.residue = x) ∧
         ∀ g, l.expectedCount = some g → g.min ≤ c.samples ∧ c.samples ≤ g.max))) ∧
     (residueCheck l c = .notApplied ↔ l.expectedResidue = none) ∧
     (residueCheck l c = .met ↔ l.expectedResidue = some c.residue) ∧
     (countCheck l c = .notApplied ↔ l.expectedCount = none) ∧
     (countCheck l c = .met ↔ ∃ g, l.expectedCount = some g ∧ g.min ≤ c.samples ∧ c.samples ≤ g.max)) ∧
  (∀ vs : List Verdict,
     (stepVerdictOf vs = .fault ↔ .fault ∈ vs) ∧
     (stepVerdictOf vs = .fail ↔ .fault ∉ vs ∧ .fail ∈ vs) ∧
     (stepVerdictOf vs = .pass ↔ .fault ∉ vs ∧ .fail ∉ vs ∧ .pass ∈ vs) ∧
     (stepVerdictOf vs = .unchecked ↔ .fault ∉ vs ∧ .fail ∉ vs ∧ .pass ∉ vs))

/-- The records of an attempt are posted all or none: with room for all they join the queue in lane order with the
next sequence numbers, and the RESULTS notice is raised when the queue was empty or the notice is pending; without
room the plan is HELD and the queue stands (R90, R91, R113, R114, R116, R117). The close that gives the last lane
its report ends the step: by an edge or a counted sample, by MARK STOP, which may close several units, and by FEED
(R87, R39, R45, R54, R56, R57). The list of edges that wait at a unit and the list of target changes are the
model's own (notes/assumptions/14 and 13). That a MARK STOP tests all named units before any close is the model's
choice (notes/assumptions/27). -/
def Obligations.StepEndPostsAllOrHolds : Prop :=
  (∀ (s : State) (r : StepRecord), s.seq.stepCopy = some r → 1 ≤ r.lanes.length → r.lanes.length ≤ 8 →
     (∀ j : Fin 8, j.val < r.lanes.length → s.seq.reports[j] ≠ none) → s.steps[s.seq.step] ≠ none →
     (64 < s.queue.records.length + r.lanes.length →
       s.endStep = { s with seq := { s.seq with plan := .held, stepTimerAt := none,
                                                heldVerdict := some s.seq.verdict } }) ∧
     (s.queue.records.length + r.lanes.length ≤ 64 → ∃ rs : List ResultRecord,
       s.endStep.queue = { records := s.queue.records ++ rs, next := s.queue.next + BitVec.ofNat 16 rs.length } ∧
       s.endStep.tx = { s.tx with
         results := resultsNoticed s.queue.records.length rs.length s.queue.next s.interp.mask s.tx.results } ∧
       recordsOf s r s.seq.verdict rs ∧ s.endStep.seq.plan ≠ .held ∧ s.endStep.seq.heldVerdict = none ∧
       ∀ y : State, y = { s with queue := s.endStep.queue, tx := s.endStep.tx,
                                 seq := { s.seq with stepTimerAt := none, heldVerdict := none } } →
         s.endStep = y.boundary s.seq.verdict)) ∧
  ((∀ (t : Nat) (s : State) (u : Fin 8) (b left c : Bound) (e : ProbeEdge) (p : ProbeInput) (r : StepRecord)
       (reason : CloseReason), Receives s u b e left → b.phase = .opened →
     (b.lane.mode = .serial p ∨ b.lane.mode = .parallel p) →
     ((b.lane.stop = .edge { line := e.line, edge := e.kind } ∧ c = left ∧ reason = .stop) ∨
       (b.lane.stop ≠ .edge { line := e.line, edge := e.kind } ∧ p.clock = { line := e.line, edge := e.kind } ∧
         (∀ q, p.qualifier = some q → (s.probes[q.line]).level = q.high) ∧
         c = left.takeSample (((List.finRange 16).filter fun n => p.data.getLsbD n.val).map
           fun n => (s.probes[n]).level) ∧ c.countClose = some reason)) →
     ClosesLast s r (onlyUnit u reason) →
     ∃ s' x, exec (.edgeReceipt t u e.line e.kind) s = .next s' ∧
       x = ({ s with now := s'.now, units := s.units.set u (some c) } : State).withClosed (onlyUnit u reason) ∧
       stepEnded x s' ∧ linesNoted { s with now := s'.now } s' (fun n => x.endStep.flags[n]) ∧
       unchangedBut [.units, .seq, .queue, .flags, .tx] s s' ∧ (s.tx.inFlight ≠ none → endNoticed x s s')) ∧
   (∀ (t : Nat) (s : State) (f : Frame) (rest : List Frame) (m : Byte) (r : StepRecord)
       (why : Fin 8 → Option CloseReason), Takes s f rest → f.kind = 0x15 → f.payload = [m, 1] →
     s.seq.plan ≠ .idle → s.seq.plan ≠ .paused →
     why = (fun u => if m.getLsbD u.val = true ∧
       (s.units[u]).any (fun b => decide (b.phase = .opened ∧ b.lane.stop = .host)) = true then some .stop else none) →
     ClosesLast s r why →
     ∃ s' x a, exec (.markStop t) s = .next s' ∧ answered f rest [0, 0, a] s s' ∧ sameSettings s s' ∧
       (∀ u : Fin 8, a.getLsbD u.val = true ↔ why u = some .stop) ∧
       x = ({ s with now := s'.now } : State).withClosed why ∧
       stepEnded x s' ∧ linesNoted { s with now := s'.now } s' (fun n => x.endStep.flags[n]) ∧
       unchangedBut [.units, .seq, .queue, .flags, .interp, .tx] s s' ∧ endNoticed x s s') ∧
   (∀ (t : Nat) (s : State) (f : Frame) (rest : List Frame) (u : Fin 8) (n o : Byte) (bytes : List Byte) (b c : Bound)
       (r : StepRecord) (k : Nat) (reason : CloseReason),
     Takes s f rest → f.kind = 0x16 → f.payload = n :: o :: bytes → bytes.length ≤ 232 → n.toNat = u.val →
     s.seq.plan = .capturing → s.units[u] = some b → b.phase = .opened → b.lane.mode = .host →
     FeedCloses b (bitsOf b.profile.byteOrder bytes) (o.getLsbD 0) k c reason → ClosesLast s r (onlyUnit u reason) →
     ∃ s' x, exec (.feed t) s = .next s' ∧ answered f rest [0, 0, BitVec.ofNat 8 (k / 8), 3] s s' ∧ sameSettings s s' ∧
       x = ({ s with now := s'.now, units := s.units.set u (some c) } : State).withClosed (onlyUnit u reason) ∧
       stepEnded x s' ∧ linesNoted { s with now := s'.now } s' (fun n => x.endStep.flags[n]) ∧
       unchangedBut [.units, .seq, .queue, .flags, .interp, .tx] s s' ∧ endNoticed x s s'))

/-- What a boundary chooses: retry, advance, a further pass, or the end of the run (R94, R95). At a boundary the units
of the step become IDLE, the close reports are discarded and the pulses are triggered; then the choice is carried
out: the run ends with the pattern levels at rest, or the plan pauses before the start with pause-pending, or the
chosen step starts (R93, R96, R97, R52, R84). -/
def Obligations.BoundaryChoosesByVerdict : Prop :=
  (∀ (s : State) (r : StepRecord) (v : Verdict), s.seq.stepCopy = some r →
     (∀ limit x, v = .fail ∨ v = .fault → r.onFail = .retry limit x → s.seq.attempt < limit →
       s.boundaryChoice v = .start s.seq.step (s.seq.attempt + 1) s.seq.iteration) ∧
     (v = .fail ∨ v = .fault → (r.onFail = .halt ∨ ∃ limit, r.onFail = .retry limit .halt ∧ limit ≤ s.seq.attempt) →
       s.boundaryChoice v = .runEnd .halted) ∧
     (v = .pass ∨ v = .unchecked ∨ r.onFail = .cont ∨ (∃ limit, r.onFail = .retry limit .cont ∧ limit ≤ s.seq.attempt) →
       (∀ n : Fin 96, s.seq.step < n → n ≤ s.seq.runLast → s.steps[n] ≠ none →
         (∀ m : Fin 96, s.seq.step < m → m < n → s.steps[m] = none) →
         s.boundaryChoice v = .start n 0 s.seq.iteration) ∧
       ((∀ n : Fin 96, s.seq.step < n → n ≤ s.seq.runLast → s.steps[n] = none) →
         (∀ n : Fin 96, s.seq.loopCount = 0 ∨ s.seq.iteration + 1 < s.seq.loopCount → s.seq.runFirst ≤ n →
           n ≤ s.seq.runLast → s.steps[n] ≠ none →
           (∀ m : Fin 96, s.seq.runFirst ≤ m → m < n → s.steps[m] = none) →
           s.boundaryChoice v = .start n 0 ((s.seq.iteration + 1) % 65536)) ∧
         (s.seq.loopCount ≠ 0 → s.seq.loopCount ≤ s.seq.iteration + 1 → s.boundaryChoice v = .runEnd .done)))) ∧
  (∀ (s : State) (r : StepRecord) (v : Verdict), s.seq.stepCopy = some r →
     (∀ kind, s.boundaryChoice v = .runEnd kind → s.boundary v = { s.released r v with
       seq := { (s.released r v).seq with
         plan := .idle, pausePending := false, runClockFrom := none, settleEndAt := none, stepTimerAt := none,
         lastOutcome := some { kind := kind, step := s.seq.step, iteration := s.seq.iteration } }
       flags := Vector.ofFn fun n => { pulsed s.now v s.flags[n] with patternLevel := (s.flags[n]).restLevel } }) ∧
     ∀ (n : Fin 96) (a i : Nat), s.boundaryChoice v = .start n a i →
       (s.seq.pausePending = true → s.boundary v = { s.released r v with
         seq := { (s.released r v).seq with
           plan := .paused, pausePending := false, step := n, attempt := a, iteration := i } }) ∧
       (s.seq.pausePending = false → ∀ q : StepRecord, s.steps[n] = some q → q.wellFormed s.widthAt = true →
         StepBegins q { s.released r v with seq := { (s.released r v).seq with step := n, attempt := a, iteration := i } }
           (s.boundary v)))

/-- PAUSE by plan state (R98). RESUME by plan state (R99). -/
def Obligations.PauseAndResumeByPlanState : Prop :=
  (∀ (t : Nat) (s : State) (f : Frame) (rest : List Frame), Takes s f rest → f.kind = 0x12 →
     (f.payload ≠ [] → ∃ s', exec (.pause t) s = .next s' ∧ answeredOnly f rest [2, 0] s s') ∧
     (f.payload = [] →
       (s.seq.plan = .idle → ∃ s', exec (.pause t) s = .next s' ∧ answeredOnly f rest [5, 0] s s') ∧
       (s.seq.plan = .paused → ∃ s', exec (.pause t) s = .next s' ∧ answeredOnly f rest [0, 0] s s') ∧
       (s.seq.plan ≠ .idle → s.seq.plan ≠ .paused → ∃ s', exec (.pause t) s = .next s' ∧
         answered f rest [0, 0] s s' ∧ sameSettings s s' ∧ sameNotices s s' ∧ unchangedBut [.seq, .interp, .tx] s s' ∧
         s'.seq = { s.seq with pausePending := true }))) ∧
  (∀ (t : Nat) (s : State) (f : Frame) (rest : List Frame), Takes s f rest → f.kind = 0x13 →
     (f.payload ≠ [] → ∃ s', exec (.resume t) s = .next s' ∧ answeredOnly f rest [2, 0] s s') ∧
     (f.payload = [] →
       (s.seq.plan ≠ .paused → s.seq.plan = .idle ∨ s.seq.pausePending = false →
         ∃ s', exec (.resume t) s = .next s' ∧ answeredOnly f rest [6, 0] s s') ∧
       (s.seq.plan ≠ .paused → s.seq.plan ≠ .idle → s.seq.pausePending = true → ∃ s', exec (.resume t) s = .next s' ∧
         answered f rest [0, 0] s s' ∧ sameSettings s s' ∧ sameNotices s s' ∧ unchangedBut [.seq, .interp, .tx] s s' ∧
         s'.seq = { s.seq with pausePending := false }) ∧
       (s.seq.plan = .paused → ∀ r, s.steps[s.seq.step] = some r → r.wellFormed s.widthAt = true →
         ∃ s', exec (.resume t) s = .next s' ∧ answered f rest [0, 0] s s' ∧ sameSettings s s' ∧
           sameNoticesButPlan s s' ∧ planNoticed s s' ∧ unchangedBut [.seq, .units, .flags, .interp, .tx] s s' ∧
           stepStarted r { s with now := s'.now }.runClock s s' ∧ s'.seq.step = s.seq.step ∧
           s'.seq.attempt = s.seq.attempt ∧ s'.seq.iteration = s.seq.iteration ∧
           s'.seq.pausePending = s.seq.pausePending ∧ s'.seq.runFirst = s.seq.runFirst ∧
           s'.seq.runLast = s.seq.runLast ∧ s'.seq.loopCount = s.seq.loopCount ∧
           s'.seq.runClockFrom = s.seq.runClockFrom ∧ s'.seq.lastOutcome = s.seq.lastOutcome ∧
           s'.seq.heldVerdict = s.seq.heldVerdict)))

/-- ABORT: MALFORMED, PLAN_IDLE, or the run ends at once with outcome ABORTED (R100, R58, R103, R104). -/
def Obligations.AbortEndsRun : Prop :=
  ∀ (t : Nat) (s : State) (f : Frame) (rest : List Frame), Takes s f rest → f.kind = 0x14 →
    (f.payload ≠ [] → ∃ s', exec (.abort t) s = .next s' ∧ answeredOnly f rest [2, 0] s s') ∧
    (f.payload = [] → s.seq.plan = .idle → ∃ s', exec (.abort t) s = .next s' ∧ answeredOnly f rest [5, 0] s s') ∧
    (f.payload = [] → s.seq.plan ≠ .idle → ∃ s', exec (.abort t) s = .next s' ∧ answered f rest [0, 0] s s' ∧
      sameSettings s s' ∧ sameNoticesButPlan s s' ∧ planNoticed s s' ∧ runStopped .aborted s s' ∧
      unchangedBut [.seq, .units, .flags, .interp, .tx] s s')

/-- STATUS reports the 25 bytes of 10.7 and changes nothing (R102). -/
def Obligations.StatusReportsPlanAndQueue : Prop :=
  ∀ (t : Nat) (s : State) (f : Frame) (rest : List Frame), Takes s f rest → f.kind = 0x02 →
    (f.payload ≠ [] → ∃ s', exec (.status t) s = .next s' ∧ answeredOnly f rest [2, 0] s s') ∧
    (f.payload = [] → ∃ s' p, exec (.status t) s = .next s' ∧ answeredOnly f rest p s s' ∧ p.length = 25 ∧
      p.take 2 = [0, 0] ∧
      (p.getD 2 0).toNat = (match s.seq.plan with
        | .idle => 0
        | .settling => 1
        | .capturing => 2
        | .held => 3
        | .paused => 4) ∧
      (p.getD 3 0).toNat = s.seq.runFirst.val ∧ (p.getD 4 0).toNat = s.seq.runLast.val ∧
      ofLeBytes ((p.drop 5).take 2) = s.seq.loopCount % 65536 ∧ (p.getD 7 0).toNat = s.seq.step.val ∧
      (p.getD 8 0).toNat = s.seq.attempt % 256 ∧ ofLeBytes ((p.drop 9).take 2) = s.seq.iteration % 65536 ∧
      (p.getD 11 0).toNat = ofBit s.seq.pausePending + 2 * ofBit s.seq.lastOutcome.isSome ∧
      (p.drop 12).take 4 = (match s.seq.lastOutcome with
        | none => [0, 0, 0, 0]
        | some o => [BitVec.ofNat 8 o.kind.code, BitVec.ofNat 8 o.step.val] ++ leBytes 2 o.iteration) ∧
      (∀ u : Fin 8, ofLeBytes ((p.drop 16).take 2) / 4 ^ u.val % 4 = unitCode s.units[u]) ∧
      (p.getD 18 0).toNat = s.queue.records.length % 256 ∧
      (s.queue.records ≠ [] → ofLeBytes ((p.drop 19).take 2) =
          (s.queue.next - BitVec.ofNat 16 s.queue.records.length).toNat ∧
        ofLeBytes ((p.drop 21).take 2) = (s.queue.next - 1).toNat) ∧
      (s.queue.records = [] → (p.drop 19).take 4 = [0, 0, 0, 0]) ∧
      ofLeBytes ((p.drop 23).take 2) = s.queue.next.toNat)

/-- A PLAN reset: the outcome becomes CLEARED and the queue is emptied with N kept; a run in progress is ended first
as ABORT ends it; the pattern levels rest (R106, R123, R135, R165, R103). That a refused RESET is taken by this
row is the model's choice (notes/assumptions/8). -/
def Obligations.PlanResetClearsRunAndQueue : Prop :=
  ∀ (t : Nat) (s : State) (f : Frame) (rest : List Frame), Takes s f rest → f.kind = 0x04 →
    (f.payload.length ≠ 1 → ∃ s', exec (.resetPlan t) s = .next s' ∧ answeredOnly f rest [2, 0] s s') ∧
    (∀ x : Byte, f.payload = [x] → 1 < x.toNat →
      ∃ s', exec (.resetPlan t) s = .next s' ∧ answeredOnly f rest [3, 0] s s') ∧
    (f.payload = [0] → ∃ s', exec (.resetPlan t) s = .next s' ∧ answered f rest [0, 0] s s' ∧ sameSettings s s' ∧
      sameNoticesButPlan s s' ∧ unchangedBut [.seq, .units, .queue, .flags, .interp, .tx] s s' ∧
      s'.queue = { records := [], next := s.queue.next } ∧
      (s.seq.plan ≠ .idle → planNoticed s s' ∧ runStopped .cleared s s') ∧
      (s.seq.plan = .idle → s'.tx.plan = s.tx.plan ∧ s'.units = s.units ∧
        s'.seq = { s.seq with
          lastOutcome := some { kind := .cleared, step := s.seq.step, iteration := s.seq.iteration } } ∧
        linesNoted { s with now := s'.now } s' (fun n => { s.flags[n] with patternLevel := s.flags[n].restLevel })))

/-! ### The Result Queue (spec/06) -/

/-- READ RESULTS: MALFORMED, RANGE, SEQ_ABSENT, or the number returned, the count held and the records from the start
on, each with its fields in the 31 bytes of 10.6, and nothing changes (R118, R119, R110). -/
def Obligations.ReadResultsReturnsRecords : Prop :=
  ∀ (t : Nat) (s : State) (f : Frame) (rest : List Frame), Takes s f rest → f.kind = 0x09 →
    (f.payload.length ≠ 1 → f.payload.length ≠ 3 →
      ∃ s', exec (.readResults t) s = .next s' ∧ answeredOnly f rest [2, 0] s s') ∧
    ∀ (m : Byte) (start : List Byte), f.payload = m :: start → start.length = 0 ∨ start.length = 2 →
      (m.toNat < 1 ∨ 7 < m.toNat → ∃ s', exec (.readResults t) s = .next s' ∧ answeredOnly f rest [3, 0] s s') ∧
      (1 ≤ m.toNat → m.toNat ≤ 7 →
        (start = [] → ∃ s' p, exec (.readResults t) s = .next s' ∧ answeredOnly f rest p s s' ∧
          resultsCarried s.queue.records.length (s.queue.records.take m.toNat) p) ∧
        ∀ (x0 x1 : Byte) (d : Nat), start = [x0, x1] →
          d = (s.queue.next - 1 - BitVec.ofNat 16 (x0.toNat + 256 * x1.toNat)).toNat →
          (s.queue.records.length ≤ d → ∃ s', exec (.readResults t) s = .next s' ∧ answeredOnly f rest [0x0F, 0] s s') ∧
          (d < s.queue.records.length → ∃ s' p, exec (.readResults t) s = .next s' ∧ answeredOnly f rest p s s' ∧
            resultsCarried s.queue.records.length
              ((s.queue.records.drop (s.queue.records.length - (d + 1))).take m.toNat) p))

/-- ACK RESULTS removes the records through the one named, or none, or is refused SEQ_AHEAD, by the distance (R120,
R121, R110); with no attempt held nothing else follows. From HELD, an ACK RESULTS that removes records makes the
sequencer ask again: with room now for all lanes the held records are posted in lane order, each with its lane's
values, with the RESULTS notice where R116 raises it, the boundary follows and the plan leaves HELD, else it stays
HELD (R92, R121, R116, R117). -/
def Obligations.AckResultsRemovesThrough : Prop :=
  (∀ (t : Nat) (s : State) (f : Frame) (rest : List Frame), Takes s f rest → f.kind = 0x0A →
     (f.payload.length ≠ 2 → ∃ s', exec (.ackResults t) s = .next s' ∧ answeredOnly f rest [2, 0] s s') ∧
     ∀ (x0 x1 : Byte) (d : Nat), f.payload = [x0, x1] →
       d = (s.queue.next - 1 - BitVec.ofNat 16 (x0.toNat + 256 * x1.toNat)).toNat →
       (s.queue.records.length ≤ d → d < 32768 →
         ∃ s', exec (.ackResults t) s = .next s' ∧ answeredOnly f rest [0, 0, 0] s s') ∧
       (s.queue.records.length ≤ d → 32768 ≤ d →
         ∃ s', exec (.ackResults t) s = .next s' ∧ answeredOnly f rest [0x0E, 0] s s') ∧
       (d < s.queue.records.length → s.seq.plan ≠ .held → ∃ s', exec (.ackResults t) s = .next s' ∧
         answered f rest [0, 0, BitVec.ofNat 8 (s.queue.records.length - d)] s s' ∧ sameSettings s s' ∧
         sameNotices s s' ∧ unchangedBut [.queue, .flags, .interp, .tx] s s' ∧
         s'.queue = { records := s.queue.records.drop (s.queue.records.length - d), next := s.queue.next } ∧
         linesNoted { s with now := s'.now } s' (fun n => s.flags[n]))) ∧
  (∀ (t : Nat) (s : State) (f : Frame) (rest : List Frame) (x0 x1 : Byte) (d : Nat) (r : StepRecord) (v : Verdict),
     Takes s f rest → f.kind = 0x0A → f.payload = [x0, x1] →
     d = (s.queue.next - 1 - BitVec.ofNat 16 (x0.toNat + 256 * x1.toNat)).toNat → d < s.queue.records.length →
     s.seq.plan = .held → s.seq.heldVerdict = some v → s.seq.stepCopy = some r → 1 ≤ r.lanes.length →
     r.lanes.length ≤ 8 →
     (∀ j : Fin 8, j.val < r.lanes.length → s.seq.reports[j] ≠ none) → s.steps[s.seq.step] ≠ none →
     ∃ s', exec (.ackResults t) s = .next s' ∧
       answered f rest [0, 0, BitVec.ofNat 8 (s.queue.records.length - d)] s s' ∧
       sameSettings s s' ∧ unchangedBut [.seq, .units, .queue, .flags, .interp, .tx] s s' ∧
       (64 < d + r.lanes.length → s'.seq = s.seq ∧ s'.units = s.units ∧ sameNotices s s' ∧
         s'.queue = { records := s.queue.records.drop (s.queue.records.length - d), next := s.queue.next }) ∧
       (d + r.lanes.length ≤ 64 → s'.seq.plan ≠ .held ∧ s'.seq.heldVerdict = none ∧ ∃ rs : List ResultRecord,
         recordsOf s r v rs ∧
         s'.queue = { records := s.queue.records.drop (s.queue.records.length - d) ++ rs,
                      next := s.queue.next + BitVec.ofNat 16 rs.length } ∧
         s'.tx.results = resultsNoticed d rs.length s.queue.next s.interp.mask s.tx.results ∧ planNoticed s s' ∧
         s'.tx.start = s.tx.start ∧ s'.tx.link = s.tx.link ∧
         ∀ y : State, y = { s with now := s'.now, queue := s'.queue, seq := { s.seq with heldVerdict := none } } →
           s'.seq = (y.boundary v).seq ∧ s'.units = (y.boundary v).units ∧
             linesNoted { s with now := s'.now } s' (fun n => (y.boundary v).flags[n])))

/-! ### Flag lines (spec/07) -/

/-- TARGET_CHANGE: with no hold running the output takes the target and a change starts a hold of W; with a hold
running the output stands (R126, R129 rows 1 and 2). HOLD_END: the hold ends, and where the target differs the
output takes it and a new hold starts (R129 rows 3 and 4); before the hold end nothing happens. That nothing
happens where the condition of a happening does not hold is read from the spec (notes/assumptions/4). A HOLD_END
named late ends its hold late, and a new hold begins then (notes/assumptions/5). The list of target changes is the
model's own (notes/assumptions/13). -/
def Obligations.StretcherFollowsTarget : Prop :=
  (∀ (t : Nat) (n : Fin 4) (s : State),
     ((s.flags[n]).changes = [] → exec (.targetChange t n) s = .next (s.advance t)) ∧
     ∀ v more, (s.flags[n]).changes = v :: more → ∃ s', exec (.targetChange t n) s = .next s' ∧
       unchangedBut [.flags] s s' ∧ (∀ m : Fin 4, m ≠ n → s'.flags[m] = s.flags[m]) ∧
       s'.flags[n] = targetTaken s'.now v { s.flags[n] with changes := more }) ∧
  (∀ (t : Nat) (n : Fin 4) (s : State),
     ((s.flags[n]).holdEnd = none → exec (.holdEnd t n) s = .next (s.advance t)) ∧
     ∀ h, (s.flags[n]).holdEnd = some h →
       (max s.now t < h → exec (.holdEnd t n) s = .next (s.advance t)) ∧
       (h ≤ max s.now t → ∃ s', exec (.holdEnd t n) s = .next s' ∧ unchangedBut [.flags] s s' ∧
         (∀ m : Fin 4, m ≠ n → s'.flags[m] = s.flags[m]) ∧
         s'.flags[n] =
           if (s.flags[n]).target = (s.flags[n]).output then { s.flags[n] with holdEnd := none }
           else { s.flags[n] with
             output := (s.flags[n]).target
             holdEnd := if (s.flags[n]).width = 0 then none else some (s'.now + micros (s.flags[n]).width) }))

/-- PULSE_END on a line of a pulse source: changes that wait are handled first, then the pulse end becomes absent, the
source value 0, and the stretcher handles the change of target (R128, R129); before the pulse end nothing happens.
A trigger sets the pulse end of the lines of its source, and of no other, to the present instant plus the larger
of 1 us and W; at every boundary STEP_END is triggered, and FAIL with a verdict of FAIL or FAULT (R128, R93,
R105). That nothing happens where the condition of a happening does not hold is read from the spec
(notes/assumptions/4). A PULSE_END named late ends its pulse late (notes/assumptions/5). That PULSE_END takes the
changes that wait first and lets the stretcher handle the new target at once is the model's choice
(notes/assumptions/23). -/
def Obligations.PulsesRunFromTriggerToEnd : Prop :=
  (∀ (t : Nat) (n : Fin 4) (s : State),
     ((s.flags[n]).pulseEnd = none → exec (.pulseEnd t n) s = .next (s.advance t)) ∧
     ∀ e, (s.flags[n]).pulseEnd = some e →
       (max s.now t < e → exec (.pulseEnd t n) s = .next (s.advance t)) ∧
       (e ≤ max s.now t → (s.flags[n]).source = .stepEnd ∨ (s.flags[n]).source = .fail →
         ∃ s', exec (.pulseEnd t n) s = .next s' ∧ unchangedBut [.flags] s s' ∧
         (∀ m : Fin 4, m ≠ n → s'.flags[m] = s.flags[m]) ∧
         s'.flags[n] = targetTaken s'.now (s.flags[n]).invert
           { (s.flags[n]).changes.foldl (fun g v => targetTaken s'.now v g) { s.flags[n] with changes := [] } with
             pulseEnd := none })) ∧
  (∀ (s : State) (v : Verdict) (n : Fin 4),
     (s.boundaryPulses v).flags[n] =
       if (s.flags[n]).source = .stepEnd ∨ ((s.flags[n]).source = .fail ∧ (v = .fail ∨ v = .fault)) then
         { s.flags[n] with pulseEnd := some (s.now + micros (max 1 (s.flags[n]).width)) }
       else s.flags[n])

/-- SET FLAG: MALFORMED, RANGE, or every named line takes the settings and keeps its hold. A line that keeps its
source keeps the changes that wait, turned with invert, and its output follows the target; where a pattern level
is set in IDLE, the changes that wait are handled first and then the new target; with another source the line
takes its new target through the stretcher (R131, R126, R127, R129). What becomes of changes of target that wait
is the model's choice among the orders of R131 (notes/assumptions/23), as is the list of them
(notes/assumptions/13). -/
def Obligations.SetFlagConfiguresLines : Prop :=
  ∀ (t : Nat) (s : State) (f : Frame) (rest : List Frame), Takes s f rest → f.kind = 0x17 →
    (f.payload.length ≠ 5 → ∃ s', exec (.setFlag t) s = .next s' ∧ answeredOnly f rest [2, 0] s s') ∧
    ∀ mask src o w0 w1 : Byte, f.payload = [mask, src, o, w0, w1] →
      (7 < src.toNat → ∃ s', exec (.setFlag t) s = .next s' ∧ answeredOnly f rest [3, 0] s s') ∧
      ∀ x, [FlagSource.host, .pattern, .active, .window, .stepEnd, .fail, .pending, .held][src.toNat]? = some x →
        ∃ s', exec (.setFlag t) s = .next s' ∧ answered f rest [0, 0] s s' ∧ sameSettings s s' ∧ sameNotices s s' ∧
          unchangedBut [.flags, .interp, .tx] s s' ∧
          linesNoted { s with now := s'.now } s' fun n =>
            if mask.getLsbD n.val then
              let turned : Bool := (s.flags[n]).invert ^^ o.getLsbD 0
              let g : FlagLine := { s.flags[n] with
                source := x
                invert := o.getLsbD 0
                width := w0.toNat + 256 * w1.toNat
                restLevel := o.getLsbD 1
                patternLevel := if s.seq.plan = .idle then o.getLsbD 1 else (s.flags[n]).patternLevel
                pulseEnd := if (s.flags[n]).source = x then (s.flags[n]).pulseEnd else none }
              if (s.flags[n]).source = x ∧ (x = .pattern → s.seq.plan ≠ .idle) then
                targetTaken s'.now ((s.flags[n]).target ^^ turned)
                  { g with changes := (s.flags[n]).changes.map fun c => c ^^ turned }
              else if (s.flags[n]).source = x then
                let f := (s.flags[n]).changes.foldl (fun h v => targetTaken s'.now v h) { s.flags[n] with changes := [] }
                targetTaken s'.now (s'.targetOf g)
                  { g with target := f.target, output := f.output, holdEnd := f.holdEnd, changes := [] }
              else targetTaken s'.now (s'.targetOf g) { g with changes := [] }
            else s.flags[n]

/-- DRIVE FLAGS: MALFORMED, or every named line takes its host level; a line of source HOST takes the new target
through the stretcher, and no other output is reached (R132). That changes of target that wait are dropped is the
model's choice (notes/assumptions/23). -/
def Obligations.DriveFlagsSetsHostLevels : Prop :=
  ∀ (t : Nat) (s : State) (f : Frame) (rest : List Frame), Takes s f rest → f.kind = 0x18 →
    (f.payload.length ≠ 2 → ∃ s', exec (.driveFlags t) s = .next s' ∧ answeredOnly f rest [2, 0] s s') ∧
    ∀ mask levels : Byte, f.payload = [mask, levels] →
      ∃ s', exec (.driveFlags t) s = .next s' ∧ answered f rest [0, 0] s s' ∧ sameSettings s s' ∧ sameNotices s s' ∧
        unchangedBut [.flags, .interp, .tx] s s' ∧
        ∀ n : Fin 4, s'.flags[n] =
          if mask.getLsbD n.val then
            if (s.flags[n]).source = .host then
              targetTaken s'.now (levels.getLsbD n.val ^^ (s.flags[n]).invert)
                { s.flags[n] with hostLevel := levels.getLsbD n.val, changes := [] }
            else { s.flags[n] with hostLevel := levels.getLsbD n.val }
          else s.flags[n]

/-- An output keeps its level while its hold runs, and every change of output starts a hold of the width in force at
the change, whatever the command, resets of the flag lines apart (R130, R129). The width in force is that of the
line, or, for a change that waited and is handled before a SET FLAG, the width before it. That the changes which
wait on a PATTERN line in IDLE are handled before a SET FLAG, with the width before it, is the model's choice
among the orders of R131 (notes/assumptions/23). -/
def Obligations.OutputsKeepMinimumWidth : Prop :=
  ∀ (c : Instr) (s s' : State) (n : Fin 4), exec c s = .next s' → ¬resetsFlags c s →
    (∀ h, (s.flags[n]).holdEnd = some h → s'.now < h →
      (s'.flags[n]).output = (s.flags[n]).output ∧ (s'.flags[n]).holdEnd = some h) ∧
    ((s'.flags[n]).output ≠ (s.flags[n]).output →
      ∃ w, (w = (s'.flags[n]).width ∨ ((s.flags[n]).changes ≠ [] ∧ (s.flags[n]).source = .pattern ∧
          s.seq.plan = .idle ∧ w = (s.flags[n]).width)) ∧
        (s'.flags[n]).holdEnd = if w = 0 then none else some (s'.now + micros w))

/-! ### The link (spec/08) -/

/-- A falling edge begins a character at the rate in force and stops the gap timer, unless it is a glitch, a character
is being received, or a low level lasts (R137, R143, R144, R150). Where a rate switch has dropped a character, the
edge says that its low has ended (R154). The gap timer reaching the gap limit inside a frame is a GAP fault; in
HUNT, before the limit or with the timer stopped nothing happens (R143, R145). That nothing happens where the
condition of a happening does not hold is read from the spec (notes/assumptions/4). That START_BIT carries the
level in the middle of the start bit is the model's choice (notes/assumptions/10), and so is what it says of the
low of a dropped character (notes/assumptions/28). A GAP named late comes late (notes/assumptions/5). -/
def Obligations.CharactersAndGaps : Prop :=
  (∀ (t : Nat) (g : Bool) (s : State),
     (s.nResetLow = true ∨ s.rx.character ≠ none ∨ (∃ x, s.rx.low = .watched x ∨ s.rx.low = .timed x) ∨
         s.rx.low = .afterBreak ∨ (g = true ∧ s.rx.low = .untimed) →
       exec (.startBit t g) s = .next (s.advance t)) ∧
     (s.nResetLow = false → s.rx.character = none → (s.rx.low = .untimed ∨ ∃ x, s.rx.low = .dropped x) →
       ∃ s', exec (.startBit t g) s = .next s' ∧ unchangedBut [.rx] s s' ∧
         s'.rx = if g then { s.rx with low := .untimed } else { s.rx with
           character := some { rate := s.rx.rate, since := s'.now }, gapFrom := none, low := .untimed })) ∧
  (∀ (t : Nat) (s : State),
     (s.rx.state = .hunt ∨ s.rx.gapFrom = none ∨ (∃ g, s.rx.gapFrom = some g ∧ max s.now t < g + millis s.rx.gapLimit) →
       exec (.gap t) s = .next (s.advance t)) ∧
     ∀ g, s.rx.state ≠ .hunt → s.rx.gapFrom = some g → g + millis s.rx.gapLimit ≤ max s.now t →
       ∃ s', exec (.gap t) s = .next s' ∧ unchangedBut [.rx, .tx] s s' ∧
         s'.rx = { s.rx with state := .hunt, gapFrom := none } ∧ linkNoticed .gap s s')

/-- A character completed in HUNT begins a frame when it is 0xC5 and is dropped otherwise, without a notice (R137,
R139). Inside a frame, a header byte, a payload byte or the first check byte is kept, folded into the running
check where it is header or payload, and restarts the gap timer; a LEN above 248 is a LENGTH fault (R140, R141,
R143, R145). That nothing happens where the condition of a happening does not hold is read from the spec
(notes/assumptions/4). -/
def Obligations.CharacterExtendsFrame : Prop :=
  (∀ (t : Nat) (b : Byte) (s : State),
     (s.rx.character = none → exec (.character t b) s = .next (s.advance t)) ∧
     (s.rx.character ≠ none → s.rx.state = .hunt → exec (.character t b) s = .next
       ({ s with
         now := max s.now t
         rx := if b = 0xC5 then { s.rx with
             state := .header [] 0xFFFF, gapFrom := some (max s.now t), character := none }
           else { s.rx with character := none } } : State).arbitrate)) ∧
  (∀ (t : Nat) (b : Byte) (s : State), s.rx.character ≠ none →
     (∀ crc, s.rx.state = .header [] crc → 248 < b.toNat → ∃ s', exec (.character t b) s = .next s' ∧
       s'.rx = { s.rx with state := .hunt, gapFrom := none, character := none } ∧ linkNoticed .length s s' ∧
       unchangedBut [.rx, .tx] s s') ∧
     (∀ x, (∃ got crc, s.rx.state = .header got crc ∧ got.length < 3 ∧ (got = [] → b.toNat ≤ 248) ∧
           x = .header (got ++ [b]) (foldByte fixed14 crc b)) ∨
         (∃ len tag kind crc, s.rx.state = .header [len, tag, kind] crc ∧
           x = (if len = 0 then
             .check { len := 0, tag := tag, kind := kind, ctrl := b } [] (foldByte fixed14 crc b) none
           else .body { len := len.toNat, tag := tag, kind := kind, ctrl := b } [] (foldByte fixed14 crc b))) ∨
         (∃ h payload crc, s.rx.state = .body h payload crc ∧
           x = (if payload.length + 1 < h.len then .body h (payload ++ [b]) (foldByte fixed14 crc b)
           else .check h (payload ++ [b]) (foldByte fixed14 crc b) none)) ∨
         (∃ h payload crc, s.rx.state = .check h payload crc none ∧ x = .check h payload crc (some b)) →
       exec (.character t b) s = .next ({ s with
         now := max s.now t
         rx := { s.rx with state := x, gapFrom := some (max s.now t), character := none } } : State).arbitrate))

/-- The second check byte ends the frame: CHECK fault, UNEXPECTED fault, hand-over to the request queue, an OVERRUN
refusal that joins the reply queue, or a drop that leaves nothing behind; but for the faults no LINK notice is
raised, and the arbiter then chooses (R142, R145, R147, R148, R172). -/
def Obligations.LastCheckByteEndsFrame : Prop :=
  ∀ (t : Nat) (b0 b1 : Byte) (s : State) (h : Header) (payload : List Byte) (crc : Word32) (rx : Receiver),
    s.rx.character ≠ none → s.rx.state = .check h payload crc (some b0) →
    rx = { s.rx with state := .hunt, gapFrom := none, character := none } →
    (crc.toNat % 65536 ≠ b0.toNat + 256 * b1.toNat →
      ∃ s', exec (.character t b1) s = .next s' ∧ s'.rx = rx ∧ unchangedBut [.rx, .tx] s s' ∧ linkNoticed .check s s') ∧
    (crc.toNat % 65536 = b0.toNat + 256 * b1.toNat → h.kind.toNat = 0 ∨ 64 ≤ h.kind.toNat →
      ∃ s', exec (.character t b1) s = .next s' ∧ s'.rx = rx ∧ unchangedBut [.rx, .tx] s s' ∧
        linkNoticed .unexpected s s') ∧
    (crc.toNat % 65536 = b0.toNat + 256 * b1.toNat → 1 ≤ h.kind.toNat → h.kind.toNat < 64 →
      (s.interp.requests.length < 4 → exec (.character t b1) s = .next
        ({ s with
          now := max s.now t
          rx := rx
          interp := { s.interp with requests := s.interp.requests ++
            [{ tag := h.tag, kind := h.kind, ctrl := h.ctrl, payload := payload }] } } : State).arbitrate) ∧
      (4 ≤ s.interp.requests.length → s.refusalsWaiting < 2 → exec (.character t b1) s = .next
        ({ s with
          now := max s.now t
          rx := rx
          tx := { s.tx with queue := s.tx.queue ++
            [{ frame := mkFrame h.tag (h.kind + 0x80) [0x10, 0], role := .refusal, attached := .nothing }] } } :
          State).arbitrate) ∧
      (4 ≤ s.interp.requests.length → 2 ≤ s.refusalsWaiting → exec (.character t b1) s = .next
        ({ s with now := max s.now t, rx := rx } : State).arbitrate))

/-- The bytes of a whole request frame, assembled from HUNT, put exactly that request at the newest end of the request
queue (R138 to R142, R147). -/
def Obligations.WholeFrameIsHandedOn : Prop :=
  ∀ (s : State) (f : Frame), s.rx.state = .hunt → f.payload.length ≤ 248 → 1 ≤ f.kind.toNat → f.kind.toNat < 64 →
    s.interp.requests.length < 4 →
    f.wire.foldl (fun x b => x.assemble b) s =
      { s with
        rx := { s.rx with state := .hunt, gapFrom := none }
        interp := { s.interp with requests := s.interp.requests ++ [f] } }

/-- A character whose stop bit is low hands no byte on and discards the partial frame without a fault; its low is
watched from the instant it began (R144). RXD returning high ends a low level: a watched low of less than 10 ms
with a FRAMING fault, a low timed from a reset, the low of a character that a rate switch dropped and the wait
after a break without one (R144, R150, R154, R155). That nothing happens where the condition of a happening does
not hold is read from the spec (notes/assumptions/4). That LOW_STOP_BIT carries the instant its low began is the
model's choice (notes/assumptions/11), that a watched or timed low of 10 ms or more is ended by neither FRAMING
nor RXD_RETURN_HIGH is too (notes/assumptions/5), and so is how the low of a character that a rate switch dropped
is followed (notes/assumptions/28). -/
def Obligations.LowLevelsEnd : Prop :=
  (∀ (t since : Nat) (s : State),
     (s.rx.character = none → exec (.lowStopBit t since) s = .next (s.advance t)) ∧
     (s.rx.character ≠ none → since ≤ t → ∃ s', exec (.lowStopBit t since) s = .next s' ∧ unchangedBut [.rx] s s' ∧
       s'.rx = { s.rx with state := .hunt, gapFrom := none, character := none, low := .watched since })) ∧
  (∀ (t since : Nat) (s : State),
     (s.rx.low = .watched since → max s.now t < since + millis 10 → ∃ s', exec (.framing t) s = .next s' ∧
       unchangedBut [.rx, .tx] s s' ∧ s'.rx = { s.rx with low := .untimed } ∧ linkNoticed .framing s s') ∧
     ((∀ x, s.rx.low = .watched x → x + millis 10 ≤ max s.now t) →
       exec (.framing t) s = .next (s.advance t)) ∧
     (s.rx.low = .afterBreak ∨ s.rx.low = .dropped since ∨
         (s.rx.low = .timed since ∧ max s.now t < since + millis 10) →
       ∃ s', exec (.rxdReturnHigh t) s = .next s' ∧ unchangedBut [.rx] s s' ∧
         s'.rx = { s.rx with low := .untimed }) ∧
     (s.rx.low = .untimed ∨ s.rx.low = .watched since ∨ (s.rx.low = .timed since ∧ since + millis 10 ≤ max s.now t) →
       exec (.rxdReturnHigh t) s = .next (s.advance t)))

/-- A low of 10 ms is a break: link recovery, and with reset pending the FULL reset just after it; no other block is
reached by the recovery. The low is one that the receiver watches or times, or that of a character which a rate
switch dropped. The frame in flight is gone, and the next begins when the character in progress has ended, at
115200; a pending START goes first, and RECOVERY stays pending behind it (R150, R151, R152, R166, R167, R169).
That nothing happens where the condition of a happening does not hold is read from the spec (notes/assumptions/4).
A BREAK named late comes late (notes/assumptions/5). The step start time 0 and the two own fields of a flag line
after the FULL reset are the model's choices (notes/assumptions/18 and 13), and that the notice chosen stops being
pending at the break, while its first byte begins at freeAt, is too (notes/assumptions/15). How the low of a
character that a rate switch dropped is followed is the model's choice (notes/assumptions/28). -/
def Obligations.BreakRecoversLink : Prop :=
  ∀ (t since : Nat) (s : State), (s.rx.low = .watched since ∨ s.rx.low = .timed since ∨ s.rx.low = .dropped since) →
    (max s.now t < since + millis 10 → exec (.brk t) s = .next (s.advance t)) ∧
    (since + millis 10 ≤ max s.now t → ∃ s' e, exec (.brk t) s = .next s' ∧
      s'.rx = { state := .hunt, rate := .b115200, gapLimit := 25, gapFrom := none, character := none,
                low := .afterBreak } ∧
      s'.interp.requests = [] ∧ s'.interp.cache = [] ∧ s'.tx.queue = [] ∧ s'.interp.resetPending = false ∧
      (s.tx.inFlight = none → e = s.tx.freeAt) ∧ (∀ f, s.tx.inFlight = some f → characterEnds f s'.now e) ∧
      (∀ f, s'.tx.inFlight = some f → f.role = .notice ∧ f.beganAt = max s'.now e ∧ f.rate = .b115200) ∧
      (s.interp.resetPending = false → unchangedBut [.rx, .interp, .tx] s s' ∧ s'.interp.mask = s.interp.mask ∧
        linkNoticed .recovery { s with tx := { s.tx with queue := [], inFlight := none, freeAt := e } } s' ∧
        (s.nResetLow = false → s.tx.start = none → s.interp.mask.link = true →
          s'.tx.plan = s.tx.plan ∧ s'.tx.results = s.tx.results ∧ s'.tx.link = none)) ∧
      (s.interp.resetPending = true → freshBlocks (fun n => (s.probes[n]).pin) s' ∧ freshInterpreter s' ∧
        s'.tx.plan = none ∧ s'.tx.results = none ∧
        s'.tx.link = linkRaised .recovery s.interp.mask s.tx.link ∧
        (s.nResetLow = false → s'.tx.start = none ∧ s'.tx.inFlight.map (·.frame) =
          some (mkFrame 0 0x40 [2, BitVec.ofNat 8 (min 255 ((s.tx.start.map (·.count)).getD 0 + 1))]))))

/-- The last byte of a frame brings about what is attached to it: nothing, a rate switch, or the FULL reset; the frame
leaves, and the arbiter chooses the next. A low watch goes on through a rate switch, and through a FULL reset its
timing goes on alone (R149, R154, R155, R157, R166, R167, R172). Before that instant nothing happens. That nothing
happens where the condition of a happening does not hold is read from the spec (notes/assumptions/4). The instant
the last byte leaves is the end of its stop bit (notes/assumptions/16). The step start time 0 and the two own
fields of a flag line after the FULL reset are the model's choices (notes/assumptions/18 and 13), and so are that
a character in reception is kept through a FULL reset (notes/assumptions/12) and how the low of a character that a
rate switch dropped is followed (notes/assumptions/28). A FRAME_SENT named late acts late (notes/assumptions/5). -/
def Obligations.FrameSentAppliesAttachment : Prop :=
  ∀ (t : Nat) (s : State),
    (s.tx.inFlight = none → exec (.frameSent t) s = .next (s.advance t)) ∧
    ∀ f, s.tx.inFlight = some f →
      (max s.now t < f.beganAt + (f.frame.payload.length + 7) * f.rate.characterTime →
        exec (.frameSent t) s = .next (s.advance t)) ∧
      (f.beganAt + (f.frame.payload.length + 7) * f.rate.characterTime ≤ max s.now t →
        ∃ s', exec (.frameSent t) s = .next s' ∧
          (f.attached = .nothing → s' = ({ s with
            now := max s.now t, tx := { s.tx with inFlight := none } } : State).arbitrate) ∧
          (∀ r, f.attached = .rateSwitch r → s' = ({ s with
            now := max s.now t
            tx := { s.tx with inFlight := none }
            rx := if r = s.rx.rate then s.rx
              else { s.rx with
                state := .hunt, rate := r, gapFrom := none, character := none
                low := match s.rx.low, s.rx.character with
                  | .untimed, some c => .dropped c.since
                  | l, _ => l } } : State).arbitrate) ∧
          (f.attached = .fullReset → freshBlocks (fun n => (s.probes[n]).pin) s' ∧ freshInterpreter s' ∧
            s'.rx = { s.rx with
              state := .hunt, gapFrom := none
              low := match s.rx.low with
                | .watched since => .timed since
                | l => l } ∧
            s'.tx.queue = [] ∧ s'.tx.plan = none ∧ s'.tx.results = none ∧ s'.tx.link = s.tx.link ∧
            (s.nResetLow = false → s'.tx.inFlight.map (·.frame) =
              some (mkFrame 0 0x40 [2, BitVec.ofNat 8 (min 255 ((s.tx.start.map (·.count)).getD 0 + 1))]))))

/-- The arbiter sends the oldest entry of the reply queue, else the pending notice of highest priority START, LINK,
PLAN, RESULTS, with the payload of 10.8; a busy TXD is left alone (R171, R172). The instant from which TXD is free
after a frame was cut off is a field of the model's own, and that a notice chosen stops being pending at the
choice, before its first byte where freeAt is later, is the model's choice (notes/assumptions/15). -/
def Obligations.ArbiterChoosesByPriority : Prop :=
  ∀ s : State, s.nResetLow = false →
    (s.tx.inFlight ≠ none → s.arbitrate = s) ∧
    (s.tx.inFlight = none → ∃ x : Transmitter, s.arbitrate = { s with tx := x } ∧ x.freeAt = s.tx.freeAt ∧
      (∀ q more, s.tx.queue = q :: more →
        x = { s.tx with
          queue := more
          inFlight := some { frame := q.frame, role := q.role, attached := q.attached,
                             beganAt := max s.now s.tx.freeAt, rate := s.rx.rate } }) ∧
      (s.tx.queue = [] →
        (∀ (n : StartNotice) (c : Nat), s.tx.start = some n →
          [StartReason.powerUp, .resetLine, .fullReset][c]? = some n.reason →
          x.inFlight.map (·.frame) = some (mkFrame 0 0x40 [BitVec.ofNat 8 c, BitVec.ofNat 8 n.count]) ∧
          { x with inFlight := none } = { s.tx with start := none }) ∧
        (∀ (n : LinkNotice) (c : Nat), s.tx.start = none → s.tx.link = some n →
          [LinkReason.gap, .length, .check, .framing, .unexpected, .recovery][c]? = some n.latest →
          x.inFlight.map (·.frame) = some (mkFrame 0 0x41 [BitVec.ofNat 8 c, n.reasons, BitVec.ofNat 8 n.count]) ∧
          { x with inFlight := none } = { s.tx with link := none }) ∧
        (∀ (n : PlanNotice) (c : Nat) (out : List Byte), s.tx.start = none → s.tx.link = none → s.tx.plan = some n →
          [PlanCondition.idle, .running, .held, .paused][c]? = some n.condition →
          (n.outcome = none → out = [0, 0, 0, 0, 0]) →
          (∀ o, n.outcome = some o → ∃ k : Nat, [OutcomeKind.done, .halted, .aborted, .cleared][k]? = some o.kind ∧
            out = [1, BitVec.ofNat 8 k, BitVec.ofNat 8 o.step.val] ++ leBytes 2 o.iteration) →
          x.inFlight.map (·.frame) = some (mkFrame 0 0x42
            ([BitVec.ofNat 8 c, BitVec.ofNat 8 n.step.val, BitVec.ofNat 8 n.attempt] ++ leBytes 2 n.iteration ++ out ++
              [BitVec.ofNat 8 n.count])) ∧
          { x with inFlight := none } = { s.tx with plan := none }) ∧
        (∀ n : ResultsNotice, s.tx.start = none → s.tx.link = none → s.tx.plan = none → s.tx.results = some n →
          x.inFlight.map (·.frame) = some (mkFrame 0 0x43
            ([BitVec.ofNat 8 n.held] ++ leBytes 2 n.oldest.toNat ++ leBytes 2 n.newest.toNat ++
              [BitVec.ofNat 8 n.count])) ∧
          { x with inFlight := none } = { s.tx with results := none }) ∧
        (∀ f, x.inFlight = some f →
          f.role = .notice ∧ f.attached = .nothing ∧ f.beganAt = max s.now s.tx.freeAt ∧ f.rate = s.rx.rate) ∧
        (s.tx.start = none → s.tx.link = none → s.tx.plan = none → s.tx.results = none → x = s.tx)))

/-- SET LINK: MALFORMED, RANGE, or the gap limit at once and the rate as a switch attached to the reply (R153, R154).
That a gap which already exceeds the new limit ends in a GAP happening of its own is read from R143
(notes/assumptions/22). -/
def Obligations.SetLinkAttachesRateSwitch : Prop :=
  ∀ (t : Nat) (s : State) (f : Frame) (rest : List Frame), Takes s f rest → f.kind = 0x05 →
    (f.payload.length ≠ 5 → ∃ s', exec (.setLink t) s = .next s' ∧ answeredOnly f rest [2, 0] s s') ∧
    ∀ r0 r1 r2 r3 g : Byte, f.payload = [r0, r1, r2, r3, g] →
      (ofLeBytes [r0, r1, r2, r3] ∉ [9600, 19200, 57600, 115200, 230400, 460800, 921600] ∨ g.toNat = 0 ∨
          250 < g.toNat →
        ∃ s', exec (.setLink t) s = .next s' ∧ answeredOnly f rest [3, 0] s s') ∧
      ∀ r : LinkRate, ofLeBytes [r0, r1, r2, r3] = r.baud → 1 ≤ g.toNat → g.toNat ≤ 250 →
        ∃ s', exec (.setLink t) s = .next s' ∧ answeredWith (.rateSwitch r) f rest [0, 0] s s' ∧ sameSettings s s' ∧
          sameNotices s s' ∧ unchangedBut [.rx, .interp, .tx] s s' ∧ s'.rx = { s.rx with gapLimit := g.toNat }

/-! ### Requests in general (spec/09) -/

/-- No request is taken from an empty queue, while nRESET is low, while reset pending is set, or while two replies
hold their places (R156, R157, R166, R174). A request with RETRY set whose tag is cached is answered with the
cached frame, which becomes the newest entry, and nothing of it is executed; nothing is attached to the reply sent
again, which holds a place of the reply queue (R154, R157, R158 step 1, R160). A reply written into a cache of at
most eight entries is the newest: it replaces an entry of its tag, else it is added, and where eight entries stand
the oldest leaves (R159). That nothing happens where the condition of a happening does not hold is read from the
spec (notes/assumptions/4). -/
def Obligations.TakingConditionsAndRetry : Prop :=
  (∀ (t : Nat) (s : State) (c : Instr), c ∈ takings t →
     (s.interp.requests = [] ∨ s.nResetLow = true ∨ s.interp.resetPending = true ∨ 2 ≤ s.placesHeld) →
     exec c s = .next (s.advance t)) ∧
  (∀ (t : Nat) (s : State) (f : Frame) (rest : List Frame) (g : OutFrame), s.interp.requests = f :: rest →
     s.mayTake = true → s.interp.cache.length ≤ 8 → f.ctrl.getLsbD 0 = true → s.interp.cached f.tag = some g →
     ∃ s', exec (rowOf f t) s = .next s' ∧ s'.interp.requests = rest ∧
       s'.interp.cache = (s.interp.cache.filter fun e => decide (e.tag ≠ f.tag)) ++ [{ tag := f.tag, frame := g }] ∧
       replyGiven g .nothing s s' ∧ sameSettings s s' ∧ sameNotices s s' ∧ unchangedBut [.interp, .tx] s s') ∧
  (∀ (tag : Byte) (g : OutFrame) (before : List CacheEntry), cacheWritten tag g before (writeCache tag g before))

/-- HELLO reports version 1, part code 0x1608 and the eight capacities in every state (R163). A KIND that names no
request is answered UNKNOWN_KIND, whatever the payload (R158 step 2, R161, R162). -/
def Obligations.HelloAndUnknownKind : Prop :=
  (∀ (t : Nat) (s : State) (f : Frame) (rest : List Frame), Takes s f rest → f.kind = 0x01 →
     ∃ s', exec (.hello t) s = .next s' ∧ answeredOnly f rest
       (if f.payload = [] then [0, 0, 1, 0x08, 0x16, 16, 8, 16, 96, 64, 4, 8, 248] else [2, 0]) s s') ∧
  (∀ (t : Nat) (s : State) (f : Frame) (rest : List Frame), Takes s f rest → f.kind.toNat = 0 ∨ 0x18 < f.kind.toNat →
     ∃ s', exec (.unknownKind t) s = .next s' ∧ answeredOnly f rest [1, 0] s s')

/-- SET NOTICES: MALFORMED, or the mask takes its values, pending notices of kinds now masked are removed, and the
reply carries the mask (R164). -/
def Obligations.SetNoticesMasksKinds : Prop :=
  ∀ (t : Nat) (s : State) (f : Frame) (rest : List Frame), Takes s f rest → f.kind = 0x03 →
    (f.payload.length ≠ 1 → ∃ s', exec (.setNotices t) s = .next s' ∧ answeredOnly f rest [2, 0] s s') ∧
    ∀ b : Byte, f.payload = [b] → ∃ s', exec (.setNotices t) s = .next s' ∧ answered f rest [0, 0, b &&& 7] s s' ∧
      s'.interp.mask = { link := b.getLsbD 0, plan := b.getLsbD 1, results := b.getLsbD 2 } ∧
      s'.interp.resetPending = s.interp.resetPending ∧ s'.tx.start = s.tx.start ∧
      s'.tx.link = (if b.getLsbD 0 then s.tx.link else none) ∧
      s'.tx.plan = (if b.getLsbD 1 then s.tx.plan else none) ∧
      s'.tx.results = (if b.getLsbD 2 then s.tx.results else none) ∧ unchangedBut [.interp, .tx] s s'

/-- A FULL reset is accepted by setting reset pending and attaching the reset to its reply; nothing else changes yet
(R165, R166). That a refused RESET is taken by this row is the model's choice (notes/assumptions/8). -/
def Obligations.FullResetWaitsForItsReply : Prop :=
  ∀ (t : Nat) (s : State) (f : Frame) (rest : List Frame), Takes s f rest → f.kind = 0x04 →
    (f.payload.length ≠ 1 → ∃ s', exec (.resetFull t) s = .next s' ∧ answeredOnly f rest [2, 0] s s') ∧
    (∀ x : Byte, f.payload = [x] → 1 < x.toNat →
      ∃ s', exec (.resetFull t) s = .next s' ∧ answeredOnly f rest [3, 0] s s') ∧
    (f.payload = [1] → ∃ s', exec (.resetFull t) s = .next s' ∧ answeredWith .fullReset f rest [0, 0] s s' ∧
      s'.interp.resetPending = true ∧ s'.interp.mask = s.interp.mask ∧ sameNotices s s' ∧
      unchangedBut [.interp, .tx] s s')

/-! ### The Profile Table and the Step Table (spec/01 1.9, spec/04) -/

/-- DEFINE PROFILE is checked in the order of R12 and R14, and an accepted one replaces the slot whole (R12, R13, R14,
R2). ERASE PROFILE: MALFORMED, RANGE, PROFILE_FIXED, PROFILE_IN_USE, or the slot becomes empty, with detail 1 when
it held a profile (R12, R13, R16). -/
def Obligations.ProfileSlotsDefinedAndErased : Prop :=
  (∀ (t : Nat) (s : State) (f : Frame) (rest : List Frame), Takes s f rest → f.kind = 0x0B →
     (f.payload.length ≠ 16 → ∃ s', exec (.defineProfile t) s = .next s' ∧ answeredOnly f rest [2, 0] s s') ∧
     ∀ (n w dir order : Byte) (poly seed mask : Nat), poly < 2 ^ 32 → seed < 2 ^ 32 → mask < 2 ^ 32 →
       f.payload = [n, w] ++ leBytes 4 poly ++ leBytes 4 seed ++ leBytes 4 mask ++ [dir, order] →
       (∀ st d : Byte, (st, d) =
           (if 15 < n.toNat then (3, 0) else if 13 < n.toNat then (9, 0)
           else if w.toNat < 4 ∨ 32 < w.toNat then (3, 1)
           else if 2 ^ w.toNat ≤ poly ∨ poly % 2 = 0 then (3, 2)
           else if 2 ^ w.toNat ≤ seed then (3, 3) else if 2 ^ w.toNat ≤ mask then (3, 4)
           else if 1 < dir.toNat then (3, 5) else if 1 < order.toNat then (3, 6) else (7, 0)) →
         (st = 7 → ∃ (m : Fin 96) (r : StepRecord) (l : Lane), s.steps[m] = some r ∧ l ∈ r.lanes ∧
           l.profile.val = n.toNat) →
         ∃ s', exec (.defineProfile t) s = .next s' ∧ answeredOnly f rest [st, d] s s') ∧
       (n.toNat ≤ 13 → 4 ≤ w.toNat → w.toNat ≤ 32 → poly < 2 ^ w.toNat → poly % 2 = 1 → seed < 2 ^ w.toNat →
         mask < 2 ^ w.toNat → dir.toNat ≤ 1 → order.toNat ≤ 1 →
         (∀ (m : Fin 96) (r : StepRecord) (l : Lane), s.steps[m] = some r → l ∈ r.lanes → l.profile.val ≠ n.toNat) →
         ∃ s', exec (.defineProfile t) s = .next s' ∧ answered f rest [0, 0] s s' ∧ sameSettings s s' ∧
           sameNotices s s' ∧ unchangedBut [.profiles, .interp, .tx] s s' ∧
           ∀ m : Fin 14, s'.profiles[m] =
             if m.val = n.toNat then some { width := w.toNat, poly := BitVec.ofNat 32 poly, seed := BitVec.ofNat 32 seed,
                                            finalMask := BitVec.ofNat 32 mask,
                                            direction := if dir = 0 then .left else .right,
                                            byteOrder := if order = 0 then .msbFirst else .lsbFirst }
             else s.profiles[m])) ∧
  (∀ (t : Nat) (s : State) (f : Frame) (rest : List Frame), Takes s f rest → f.kind = 0x0D →
     (f.payload.length ≠ 1 → ∃ s', exec (.eraseProfile t) s = .next s' ∧ answeredOnly f rest [2, 0] s s') ∧
     ∀ n : Byte, f.payload = [n] →
       (15 < n.toNat → ∃ s', exec (.eraseProfile t) s = .next s' ∧ answeredOnly f rest [3, 0] s s') ∧
       (n = 14 ∨ n = 15 → ∃ s', exec (.eraseProfile t) s = .next s' ∧ answeredOnly f rest [9, 0] s s') ∧
       ∀ k : Fin 14, n.toNat = k.val →
         ((∃ (m : Fin 96) (r : StepRecord) (l : Lane), s.steps[m] = some r ∧ l ∈ r.lanes ∧ l.profile.val = k.val) →
           ∃ s', exec (.eraseProfile t) s = .next s' ∧ answeredOnly f rest [7, 0] s s') ∧
         ((∀ (m : Fin 96) (r : StepRecord) (l : Lane), s.steps[m] = some r → l ∈ r.lanes → l.profile.val ≠ k.val) →
           ∃ s', exec (.eraseProfile t) s = .next s' ∧
             answered f rest [0, if s.profiles[k] = none then 0 else 1] s s' ∧ sameSettings s s' ∧ sameNotices s s' ∧
             unchangedBut [.profiles, .interp, .tx] s s' ∧
             ∀ m : Fin 14, s'.profiles[m] = if m = k then none else s.profiles[m]))

/-- READ PROFILE returns the sixteen bytes of the profile as defined, or refuses MALFORMED, RANGE or PROFILE_EMPTY,
and changes nothing (R12, R15, R3). -/
def Obligations.ReadProfileReturnsContents : Prop :=
  ∀ (t : Nat) (s : State) (f : Frame) (rest : List Frame), Takes s f rest → f.kind = 0x0C →
    (f.payload.length ≠ 1 → ∃ s', exec (.readProfile t) s = .next s' ∧ answeredOnly f rest [2, 0] s s') ∧
    ∀ n : Byte, f.payload = [n] →
      (15 < n.toNat → ∃ s', exec (.readProfile t) s = .next s' ∧ answeredOnly f rest [3, 0] s s') ∧
      (∀ k : Fin 14, n.toNat = k.val → s.profiles[k] = none →
        ∃ s', exec (.readProfile t) s = .next s' ∧ answeredOnly f rest [8, 0] s s') ∧
      ∀ p : Profile, ((∃ k : Fin 14, n.toNat = k.val ∧ s.profiles[k] = some p) ∨
          (n = 14 ∧ p = { width := 16, poly := 0x1021, seed := 0xFFFF, finalMask := 0, direction := .left,
                          byteOrder := .msbFirst }) ∨
          (n = 15 ∧ p = { width := 32, poly := 0x04C11DB7, seed := 0xFFFFFFFF, finalMask := 0xFFFFFFFF,
                          direction := .right, byteOrder := .lsbFirst })) →
        ∃ s', exec (.readProfile t) s = .next s' ∧ answeredOnly f rest
          ([0, 0, n, BitVec.ofNat 8 p.width] ++ leBytes 4 p.poly.toNat ++ leBytes 4 p.seed.toNat ++
            leBytes 4 p.finalMask.toNat ++ [if p.direction = .left then 0 else 1,
              if p.byteOrder = .msbFirst then 0 else 1]) s s'

/-- COMPUTE folds its bytes from the slot's seed and replies with the width and the reported residue; it changes
nothing (R17, R9, R10, R12). -/
def Obligations.ComputeRepliesWithSignature : Prop :=
  ∀ (t : Nat) (s : State) (f : Frame) (rest : List Frame), Takes s f rest → f.kind = 0x0E →
    (f.payload.length < 2 ∨ 241 < f.payload.length →
      ∃ s', exec (.compute t) s = .next s' ∧ answeredOnly f rest [2, 0] s s') ∧
    ∀ (n : Byte) (bytes : List Byte), f.payload = n :: bytes → 1 ≤ bytes.length → bytes.length ≤ 240 →
      (15 < n.toNat → ∃ s', exec (.compute t) s = .next s' ∧ answeredOnly f rest [3, 0] s s') ∧
      ∀ k : Fin 16, n.toNat = k.val →
        (s.profileAt k = none → ∃ s', exec (.compute t) s = .next s' ∧ answeredOnly f rest [8, 0] s s') ∧
        ∀ p, s.profileAt k = some p → ∃ s', exec (.compute t) s = .next s' ∧ answeredOnly f rest
          ([0, 0, BitVec.ofNat 8 p.width] ++
            leBytes 4 ((bytes.flatMap fun b => (List.range 8).map fun j =>
                b.getLsbD (if p.byteOrder = .msbFirst then 7 - j else j)).foldl (serialFold p) p.seed ^^^
              p.finalMask).toNat) s s'

/-- DEFINE STEP is MALFORMED exactly when its payload's length is not the one that it declares, and the fields read
are those at their places (R178, 10.5). It is checked as a whole in the order of R70; an accepted one replaces the
slot whole and reaches nothing else (R70, R74). The checks of R71 to R73 give the first fault: header faults with
detail 0 before any lane, then the lanes one by one with their position. The twelve checks of a lane, in order:
unit RANGE, unit UNIT_CLASH, slot RANGE, slot PROFILE_EMPTY, then checks 5 to 12, each RANGE; a lane that passes
holds the fields that its bytes give (R72, R73, R64 to R67). -/
def Obligations.DefineStepStoresWholeRecord : Prop :=
  (∀ (t : Nat) (s : State) (f : Frame) (rest : List Frame), Takes s f rest → f.kind = 0x06 →
     (¬stepFits f.payload →
       ∃ s', exec (.defineStep t) s = .next s' ∧ answeredOnly f rest [2, 0] s s') ∧
     (stepFits f.payload → ∃ raw, readStepPayload f.payload = some raw ∧ stepCarried raw f.payload) ∧
     ∀ raw, readStepPayload f.payload = some raw →
       (s.seq.plan ≠ .idle → ∃ s', exec (.defineStep t) s = .next s' ∧ answeredOnly f rest [4, 0] s s') ∧
       (s.seq.plan = .idle → ∀ st d, checkStep s.widthAt raw = .error (st, d) →
         ∃ s', exec (.defineStep t) s = .next s' ∧ answeredOnly f rest [byteOf st.code, byteOf d] s s') ∧
       (s.seq.plan = .idle → ∀ r, checkStep s.widthAt raw = .ok r →
         ∃ s', exec (.defineStep t) s = .next s' ∧ answered f rest [0, 0] s s' ∧ sameSettings s s' ∧
           sameNotices s s' ∧ unchangedBut [.steps, .interp, .tx] s s' ∧
           ∀ m : Fin 96, s'.steps[m] = if m = r.number then some r else s.steps[m])) ∧
  (∀ (width : Fin 16 → Option Nat) (raw : RawStep),
     ((95 < raw.number ∨ raw.laneCount = 0 ∨ 8 < raw.laneCount ∨ 2 < raw.onFail ∨
         (raw.onFail < 2 ∧ (raw.retryLimit ≠ none ∨ raw.exhaust ≠ none)) ∨
         (raw.onFail = 2 ∧ (raw.retryLimit = none ∨ raw.exhaust = none)) ∨
         (∃ n, raw.retryLimit = some n ∧ (n < 1 ∨ 7 < n)) ∨ (∃ n, raw.exhaust = some n ∧ 1 < n) ∨
         ∃ n, raw.pattern = some n ∧ ∃ k < 4, n / 4 ^ k % 4 = 3) →
       checkStep width raw = .error (.range, 0)) ∧
     (∀ (ok : List RawLane) (l : RawLane) (more : List RawLane) (before : List Lane) (st : Status),
       raw.lanes = ok ++ l :: more → checkLanes width 1 [] ok = .ok before →
       checkLane width (before.map (·.unit)) l = .error st →
       raw.number < 96 → 1 ≤ raw.laneCount → raw.laneCount ≤ 8 → patternField raw ≠ none → onFailOf raw ≠ none →
       checkStep width raw = .error (st, ok.length + 1)) ∧
     (∀ (ls : List Lane) (p : Option (Vector PatternValue 4)) (a : OnFail), checkLanes width 1 [] raw.lanes = .ok ls →
       raw.number < 96 → 1 ≤ raw.laneCount → raw.laneCount ≤ 8 → patternField raw = some p → onFailOf raw = some a →
       ∃ r, checkStep width raw = .ok r ∧ r.number.val = raw.number ∧ r.label = BitVec.ofNat 16 raw.label ∧
         r.timeLimit = raw.timeLimit ∧ r.settle = raw.settle ∧ r.pattern = p ∧ r.onFail = a ∧ r.lanes = ls)) ∧
  (∀ (width : Fin 16 → Option Nat) (before : List (Fin 8)) (l : RawLane),
     (7 < l.unit → checkLane width before l = .error .range) ∧
     ∀ u : Fin 8, u.val = l.unit →
       (u ∈ before → checkLane width before l = .error .unitClash) ∧
       (u ∉ before → 15 < l.slot → checkLane width before l = .error .range) ∧
       ∀ k : Fin 16, u ∉ before → k.val = l.slot →
         (width k = none → checkLane width before l = .error .profileEmpty) ∧
         ∀ w, width k = some w →
           (LaneFault w l → checkLane width before l = .error .range) ∧
           (¬LaneFault w l → ∃ x, checkLane width before l = .ok x ∧ x.unit = u ∧ x.profile = k ∧ laneRead l x))

/-- Encode and decode agree: the bytes of a well-formed step record, as READ STEP sends them, are read and checked
back to exactly that record (R75, R178). -/
def Obligations.StepRecordRoundTrip : Prop :=
  ∀ (width : Fin 16 → Option Nat) (r : StepRecord),
    r.wellFormed width = true →
    ∃ raw, readStepPayload (stepBytes r) = some raw ∧ checkStep width raw = .ok r

/-- READ STEP: MALFORMED, RANGE, STEP_EMPTY, or the bytes of the record, in every plan state; it changes nothing
(R75). The bytes have their declared length, and every field of the record stands at its place in them, with the
presence bits of the fields it has and every unused bit 0 (R178, 10.5). ERASE STEPS: MALFORMED, then PLAN_ACTIVE
and RANGE with a count of 0, or every slot of the range becomes empty and the reply counts the records it held
(R76). -/
def Obligations.StepSlotsReadAndErased : Prop :=
  (∀ (t : Nat) (s : State) (f : Frame) (rest : List Frame), Takes s f rest → f.kind = 0x07 →
     (f.payload.length ≠ 1 → ∃ s', exec (.readStep t) s = .next s' ∧ answeredOnly f rest [2, 0] s s') ∧
     ∀ n : Byte, f.payload = [n] →
       (95 < n.toNat → ∃ s', exec (.readStep t) s = .next s' ∧ answeredOnly f rest [3, 0] s s') ∧
       ∀ k : Fin 96, n.toNat = k.val →
         (s.steps[k] = none → ∃ s', exec (.readStep t) s = .next s' ∧ answeredOnly f rest [0x0A, 0] s s') ∧
         ∀ r, s.steps[k] = some r →
           (∃ s', exec (.readStep t) s = .next s' ∧ answeredOnly f rest ([0, 0] ++ stepBytes r) s s') ∧
           ∀ width, r.wellFormed width = true → stepLaidOut r (stepBytes r)) ∧
  (∀ (t : Nat) (s : State) (f : Frame) (rest : List Frame), Takes s f rest → f.kind = 0x08 →
     (f.payload.length ≠ 2 → ∃ s', exec (.eraseSteps t) s = .next s' ∧ answeredOnly f rest [2, 0] s s') ∧
     ∀ a b : Byte, f.payload = [a, b] →
       (s.seq.plan ≠ .idle → ∃ s', exec (.eraseSteps t) s = .next s' ∧ answeredOnly f rest [4, 0, 0] s s') ∧
       (s.seq.plan = .idle → b.toNat < a.toNat ∨ 95 < b.toNat →
         ∃ s', exec (.eraseSteps t) s = .next s' ∧ answeredOnly f rest [3, 0, 0] s s') ∧
       (s.seq.plan = .idle → a.toNat ≤ b.toNat → b.toNat ≤ 95 → ∃ s', exec (.eraseSteps t) s = .next s' ∧
         answered f rest [0, 0, BitVec.ofNat 8 ((List.finRange 96).countP fun m =>
           decide (a.toNat ≤ m.val) && decide (m.val ≤ b.toNat) && s.steps[m].isSome)] s s' ∧
         sameSettings s s' ∧ sameNotices s s' ∧ unchangedBut [.steps, .interp, .tx] s s' ∧
         ∀ m : Fin 96, s'.steps[m] = if a.toNat ≤ m.val ∧ m.val ≤ b.toNat then none else s.steps[m]))
end

