-- ==== Sys2Proof/Laws/State.lean ====
section
/-! SUPPORT. What each named operation leaves of State. An operation that is one record update has one lemma for
each field it does not touch; an operation with cases has one lemma, `<operation>_frame`, that lists them, which
simp takes apart into its equations. -/

namespace Sys2Proof.Machine

/-! ### Time and notices -/

@[simp] theorem State.advance_nResetLow (t : Nat) (s : State) : (s.advance t).nResetLow = s.nResetLow := rfl
@[simp] theorem State.advance_probes (t : Nat) (s : State) : (s.advance t).probes = s.probes := rfl
@[simp] theorem State.advance_profiles (t : Nat) (s : State) : (s.advance t).profiles = s.profiles := rfl
@[simp] theorem State.advance_steps (t : Nat) (s : State) : (s.advance t).steps = s.steps := rfl
@[simp] theorem State.advance_units (t : Nat) (s : State) : (s.advance t).units = s.units := rfl
@[simp] theorem State.advance_seq (t : Nat) (s : State) : (s.advance t).seq = s.seq := rfl
@[simp] theorem State.advance_queue (t : Nat) (s : State) : (s.advance t).queue = s.queue := rfl
@[simp] theorem State.advance_flags (t : Nat) (s : State) : (s.advance t).flags = s.flags := rfl
@[simp] theorem State.advance_rx (t : Nat) (s : State) : (s.advance t).rx = s.rx := rfl
@[simp] theorem State.advance_interp (t : Nat) (s : State) : (s.advance t).interp = s.interp := rfl
@[simp] theorem State.advance_tx (t : Nat) (s : State) : (s.advance t).tx = s.tx := rfl
@[simp] theorem State.advance_choices (t : Nat) (s : State) : (s.advance t).choices = s.choices := rfl
@[simp] theorem State.advance_pending (t : Nat) (s : State) : (s.advance t).pending = s.pending := rfl
@[simp] theorem State.advance_now (t : Nat) (s : State) : (s.advance t).now = max s.now t := rfl

@[simp] theorem State.raiseStart_now (r : StartReason) (s : State) : (s.raiseStart r).now = s.now := rfl
@[simp] theorem State.raiseStart_nResetLow (r : StartReason) (s : State) : (s.raiseStart r).nResetLow = s.nResetLow :=
  rfl
@[simp] theorem State.raiseStart_probes (r : StartReason) (s : State) : (s.raiseStart r).probes = s.probes := rfl
@[simp] theorem State.raiseStart_profiles (r : StartReason) (s : State) : (s.raiseStart r).profiles = s.profiles :=
  rfl
@[simp] theorem State.raiseStart_steps (r : StartReason) (s : State) : (s.raiseStart r).steps = s.steps := rfl
@[simp] theorem State.raiseStart_units (r : StartReason) (s : State) : (s.raiseStart r).units = s.units := rfl
@[simp] theorem State.raiseStart_seq (r : StartReason) (s : State) : (s.raiseStart r).seq = s.seq := rfl
@[simp] theorem State.raiseStart_queue (r : StartReason) (s : State) : (s.raiseStart r).queue = s.queue := rfl
@[simp] theorem State.raiseStart_flags (r : StartReason) (s : State) : (s.raiseStart r).flags = s.flags := rfl
@[simp] theorem State.raiseStart_rx (r : StartReason) (s : State) : (s.raiseStart r).rx = s.rx := rfl
@[simp] theorem State.raiseStart_interp (r : StartReason) (s : State) : (s.raiseStart r).interp = s.interp := rfl
@[simp] theorem State.raiseStart_choices (r : StartReason) (s : State) : (s.raiseStart r).choices = s.choices := rfl
@[simp] theorem State.raiseStart_pending (r : StartReason) (s : State) : (s.raiseStart r).pending = s.pending := rfl

@[simp] theorem State.raiseLink_frame (r : LinkReason) (s : State) :
    (s.raiseLink r).now = s.now ∧ (s.raiseLink r).nResetLow = s.nResetLow ∧ (s.raiseLink r).probes = s.probes ∧
    (s.raiseLink r).profiles = s.profiles ∧ (s.raiseLink r).steps = s.steps ∧ (s.raiseLink r).units = s.units ∧
    (s.raiseLink r).seq = s.seq ∧ (s.raiseLink r).queue = s.queue ∧ (s.raiseLink r).flags = s.flags ∧
    (s.raiseLink r).rx = s.rx ∧ (s.raiseLink r).interp = s.interp ∧ (s.raiseLink r).choices = s.choices ∧
    (s.raiseLink r).pending = s.pending := by unfold State.raiseLink; split <;> simp

@[simp] theorem State.raisePlan_frame (s : State) :
    (s.raisePlan).now = s.now ∧ (s.raisePlan).nResetLow = s.nResetLow ∧ (s.raisePlan).probes = s.probes ∧
    (s.raisePlan).profiles = s.profiles ∧ (s.raisePlan).steps = s.steps ∧ (s.raisePlan).units = s.units ∧
    (s.raisePlan).seq = s.seq ∧ (s.raisePlan).queue = s.queue ∧ (s.raisePlan).flags = s.flags ∧
    (s.raisePlan).rx = s.rx ∧ (s.raisePlan).interp = s.interp ∧ (s.raisePlan).choices = s.choices ∧
    (s.raisePlan).pending = s.pending := by unfold State.raisePlan; split <;> simp

@[simp] theorem State.raiseResults_frame (s : State) :
    (s.raiseResults).now = s.now ∧ (s.raiseResults).nResetLow = s.nResetLow ∧ (s.raiseResults).probes = s.probes ∧
    (s.raiseResults).profiles = s.profiles ∧ (s.raiseResults).steps = s.steps ∧ (s.raiseResults).units = s.units ∧
    (s.raiseResults).seq = s.seq ∧ (s.raiseResults).queue = s.queue ∧ (s.raiseResults).flags = s.flags ∧
    (s.raiseResults).rx = s.rx ∧ (s.raiseResults).interp = s.interp ∧ (s.raiseResults).choices = s.choices ∧
    (s.raiseResults).pending = s.pending := by unfold State.raiseResults; split <;> simp

@[simp] theorem State.noticePlan_frame (b : State) (s : State) :
    (s.noticePlan b).now = s.now ∧ (s.noticePlan b).nResetLow = s.nResetLow ∧ (s.noticePlan b).probes = s.probes ∧
    (s.noticePlan b).profiles = s.profiles ∧ (s.noticePlan b).steps = s.steps ∧ (s.noticePlan b).units = s.units ∧
    (s.noticePlan b).seq = s.seq ∧ (s.noticePlan b).queue = s.queue ∧ (s.noticePlan b).flags = s.flags ∧
    (s.noticePlan b).rx = s.rx ∧ (s.noticePlan b).interp = s.interp ∧ (s.noticePlan b).choices = s.choices ∧
    (s.noticePlan b).pending = s.pending := by unfold State.noticePlan; split <;> simp

@[simp] theorem State.arbitrate_frame (s : State) :
    (s.arbitrate).now = s.now ∧ (s.arbitrate).nResetLow = s.nResetLow ∧ (s.arbitrate).probes = s.probes ∧
    (s.arbitrate).profiles = s.profiles ∧ (s.arbitrate).steps = s.steps ∧ (s.arbitrate).units = s.units ∧
    (s.arbitrate).seq = s.seq ∧ (s.arbitrate).queue = s.queue ∧ (s.arbitrate).flags = s.flags ∧
    (s.arbitrate).rx = s.rx ∧ (s.arbitrate).interp = s.interp ∧ (s.arbitrate).choices = s.choices ∧
    (s.arbitrate).pending = s.pending := by
  unfold State.arbitrate; split
  · simp
  · split <;> simp

/-! ### Flag Outputs -/

@[simp] theorem State.noteTargets_now (b : State) (s : State) : (s.noteTargets b).now = s.now := rfl
@[simp] theorem State.noteTargets_nResetLow (b : State) (s : State) : (s.noteTargets b).nResetLow = s.nResetLow :=
  rfl
@[simp] theorem State.noteTargets_probes (b : State) (s : State) : (s.noteTargets b).probes = s.probes := rfl
@[simp] theorem State.noteTargets_profiles (b : State) (s : State) : (s.noteTargets b).profiles = s.profiles := rfl
@[simp] theorem State.noteTargets_steps (b : State) (s : State) : (s.noteTargets b).steps = s.steps := rfl
@[simp] theorem State.noteTargets_units (b : State) (s : State) : (s.noteTargets b).units = s.units := rfl
@[simp] theorem State.noteTargets_seq (b : State) (s : State) : (s.noteTargets b).seq = s.seq := rfl
@[simp] theorem State.noteTargets_queue (b : State) (s : State) : (s.noteTargets b).queue = s.queue := rfl
@[simp] theorem State.noteTargets_rx (b : State) (s : State) : (s.noteTargets b).rx = s.rx := rfl
@[simp] theorem State.noteTargets_interp (b : State) (s : State) : (s.noteTargets b).interp = s.interp := rfl
@[simp] theorem State.noteTargets_tx (b : State) (s : State) : (s.noteTargets b).tx = s.tx := rfl
@[simp] theorem State.noteTargets_choices (b : State) (s : State) : (s.noteTargets b).choices = s.choices := rfl
@[simp] theorem State.noteTargets_pending (b : State) (s : State) : (s.noteTargets b).pending = s.pending := rfl

@[simp] theorem State.finish_frame (b : State) (s : State) :
    (s.finish b).now = s.now ∧ (s.finish b).nResetLow = s.nResetLow ∧ (s.finish b).probes = s.probes ∧
    (s.finish b).profiles = s.profiles ∧ (s.finish b).steps = s.steps ∧ (s.finish b).units = s.units ∧
    (s.finish b).seq = s.seq ∧ (s.finish b).queue = s.queue ∧ (s.finish b).rx = s.rx ∧
    (s.finish b).interp = s.interp ∧ (s.finish b).choices = s.choices ∧
    (s.finish b).pending = s.pending := by simp [State.finish]

@[simp] theorem State.trigger_now (x : FlagSource) (s : State) : (s.trigger x).now = s.now := rfl
@[simp] theorem State.trigger_nResetLow (x : FlagSource) (s : State) : (s.trigger x).nResetLow = s.nResetLow := rfl
@[simp] theorem State.trigger_probes (x : FlagSource) (s : State) : (s.trigger x).probes = s.probes := rfl
@[simp] theorem State.trigger_profiles (x : FlagSource) (s : State) : (s.trigger x).profiles = s.profiles := rfl
@[simp] theorem State.trigger_steps (x : FlagSource) (s : State) : (s.trigger x).steps = s.steps := rfl
@[simp] theorem State.trigger_units (x : FlagSource) (s : State) : (s.trigger x).units = s.units := rfl
@[simp] theorem State.trigger_seq (x : FlagSource) (s : State) : (s.trigger x).seq = s.seq := rfl
@[simp] theorem State.trigger_queue (x : FlagSource) (s : State) : (s.trigger x).queue = s.queue := rfl
@[simp] theorem State.trigger_rx (x : FlagSource) (s : State) : (s.trigger x).rx = s.rx := rfl
@[simp] theorem State.trigger_interp (x : FlagSource) (s : State) : (s.trigger x).interp = s.interp := rfl
@[simp] theorem State.trigger_tx (x : FlagSource) (s : State) : (s.trigger x).tx = s.tx := rfl
@[simp] theorem State.trigger_choices (x : FlagSource) (s : State) : (s.trigger x).choices = s.choices := rfl
@[simp] theorem State.trigger_pending (x : FlagSource) (s : State) : (s.trigger x).pending = s.pending := rfl

@[simp] theorem State.applyPattern_frame (p : Option (Vector PatternValue 4)) (s : State) :
    (s.applyPattern p).now = s.now ∧ (s.applyPattern p).nResetLow = s.nResetLow ∧
    (s.applyPattern p).probes = s.probes ∧ (s.applyPattern p).profiles = s.profiles ∧
    (s.applyPattern p).steps = s.steps ∧ (s.applyPattern p).units = s.units ∧ (s.applyPattern p).seq = s.seq ∧
    (s.applyPattern p).queue = s.queue ∧ (s.applyPattern p).rx = s.rx ∧ (s.applyPattern p).interp = s.interp ∧
    (s.applyPattern p).tx = s.tx ∧ (s.applyPattern p).choices = s.choices ∧
    (s.applyPattern p).pending = s.pending := by unfold State.applyPattern; split <;> simp

@[simp] theorem State.restPatterns_now (s : State) : (s.restPatterns).now = s.now := rfl
@[simp] theorem State.restPatterns_nResetLow (s : State) : (s.restPatterns).nResetLow = s.nResetLow := rfl
@[simp] theorem State.restPatterns_probes (s : State) : (s.restPatterns).probes = s.probes := rfl
@[simp] theorem State.restPatterns_profiles (s : State) : (s.restPatterns).profiles = s.profiles := rfl
@[simp] theorem State.restPatterns_steps (s : State) : (s.restPatterns).steps = s.steps := rfl
@[simp] theorem State.restPatterns_units (s : State) : (s.restPatterns).units = s.units := rfl
@[simp] theorem State.restPatterns_seq (s : State) : (s.restPatterns).seq = s.seq := rfl
@[simp] theorem State.restPatterns_queue (s : State) : (s.restPatterns).queue = s.queue := rfl
@[simp] theorem State.restPatterns_rx (s : State) : (s.restPatterns).rx = s.rx := rfl
@[simp] theorem State.restPatterns_interp (s : State) : (s.restPatterns).interp = s.interp := rfl
@[simp] theorem State.restPatterns_tx (s : State) : (s.restPatterns).tx = s.tx := rfl
@[simp] theorem State.restPatterns_choices (s : State) : (s.restPatterns).choices = s.choices := rfl
@[simp] theorem State.restPatterns_pending (s : State) : (s.restPatterns).pending = s.pending := rfl

/-! ### Probe edges and probe lines -/

@[simp] theorem State.deliverEdge_now (e : ProbeEdge) (s : State) : (s.deliverEdge e).now = s.now := rfl
@[simp] theorem State.deliverEdge_nResetLow (e : ProbeEdge) (s : State) : (s.deliverEdge e).nResetLow = s.nResetLow :=
  rfl
@[simp] theorem State.deliverEdge_probes (e : ProbeEdge) (s : State) : (s.deliverEdge e).probes = s.probes := rfl
@[simp] theorem State.deliverEdge_profiles (e : ProbeEdge) (s : State) : (s.deliverEdge e).profiles = s.profiles :=
  rfl
@[simp] theorem State.deliverEdge_steps (e : ProbeEdge) (s : State) : (s.deliverEdge e).steps = s.steps := rfl
@[simp] theorem State.deliverEdge_seq (e : ProbeEdge) (s : State) : (s.deliverEdge e).seq = s.seq := rfl
@[simp] theorem State.deliverEdge_queue (e : ProbeEdge) (s : State) : (s.deliverEdge e).queue = s.queue := rfl
@[simp] theorem State.deliverEdge_flags (e : ProbeEdge) (s : State) : (s.deliverEdge e).flags = s.flags := rfl
@[simp] theorem State.deliverEdge_rx (e : ProbeEdge) (s : State) : (s.deliverEdge e).rx = s.rx := rfl
@[simp] theorem State.deliverEdge_interp (e : ProbeEdge) (s : State) : (s.deliverEdge e).interp = s.interp := rfl
@[simp] theorem State.deliverEdge_tx (e : ProbeEdge) (s : State) : (s.deliverEdge e).tx = s.tx := rfl
@[simp] theorem State.deliverEdge_choices (e : ProbeEdge) (s : State) : (s.deliverEdge e).choices = s.choices := rfl
@[simp] theorem State.deliverEdge_pending (e : ProbeEdge) (s : State) : (s.deliverEdge e).pending = s.pending := rfl

@[simp] theorem State.setLine_frame (n : Fin 16) (p : ProbeLine) (s : State) :
    (s.setLine n p).now = s.now ∧ (s.setLine n p).nResetLow = s.nResetLow ∧ (s.setLine n p).profiles = s.profiles ∧
    (s.setLine n p).steps = s.steps ∧ (s.setLine n p).seq = s.seq ∧ (s.setLine n p).queue = s.queue ∧
    (s.setLine n p).flags = s.flags ∧ (s.setLine n p).rx = s.rx ∧ (s.setLine n p).interp = s.interp ∧
    (s.setLine n p).tx = s.tx ∧ (s.setLine n p).choices = s.choices ∧
    (s.setLine n p).pending = s.pending := by unfold State.setLine; dsimp only; split <;> simp

@[simp] theorem State.acceptDue_frame (n : Fin 16) (s : State) :
    (s.acceptDue n).now = s.now ∧ (s.acceptDue n).nResetLow = s.nResetLow ∧ (s.acceptDue n).profiles = s.profiles ∧
    (s.acceptDue n).steps = s.steps ∧ (s.acceptDue n).seq = s.seq ∧ (s.acceptDue n).queue = s.queue ∧
    (s.acceptDue n).flags = s.flags ∧ (s.acceptDue n).rx = s.rx ∧ (s.acceptDue n).interp = s.interp ∧
    (s.acceptDue n).tx = s.tx ∧ (s.acceptDue n).choices = s.choices ∧
    (s.acceptDue n).pending = s.pending := by unfold State.acceptDue; split <;> simp

/-! ### Plan Sequencer -/

@[simp] theorem State.armLane_frame (l : Lane) (s : State) :
    (s.armLane l).now = s.now ∧ (s.armLane l).nResetLow = s.nResetLow ∧ (s.armLane l).probes = s.probes ∧
    (s.armLane l).profiles = s.profiles ∧ (s.armLane l).steps = s.steps ∧ (s.armLane l).seq = s.seq ∧
    (s.armLane l).queue = s.queue ∧ (s.armLane l).flags = s.flags ∧ (s.armLane l).rx = s.rx ∧
    (s.armLane l).interp = s.interp ∧ (s.armLane l).tx = s.tx ∧ (s.armLane l).choices = s.choices ∧
    (s.armLane l).pending = s.pending := by unfold State.armLane; split <;> simp

@[simp] theorem State.armAll_frame (ls : List Lane) (s : State) :
    (s.armAll ls).now = s.now ∧ (s.armAll ls).nResetLow = s.nResetLow ∧ (s.armAll ls).probes = s.probes ∧
    (s.armAll ls).profiles = s.profiles ∧ (s.armAll ls).steps = s.steps ∧ (s.armAll ls).seq = s.seq ∧
    (s.armAll ls).queue = s.queue ∧ (s.armAll ls).flags = s.flags ∧ (s.armAll ls).rx = s.rx ∧
    (s.armAll ls).interp = s.interp ∧ (s.armAll ls).tx = s.tx ∧ (s.armAll ls).choices = s.choices ∧
    (s.armAll ls).pending = s.pending := by
  unfold State.armAll
  induction ls generalizing s with
  | nil => simp
  | cons l ls ih => simp only [List.foldl_cons, ih, State.armLane_frame, and_self]

@[simp] theorem State.capture_frame (s : State) :
    (s.capture).now = s.now ∧ (s.capture).nResetLow = s.nResetLow ∧ (s.capture).probes = s.probes ∧
    (s.capture).profiles = s.profiles ∧ (s.capture).steps = s.steps ∧ (s.capture).queue = s.queue ∧
    (s.capture).flags = s.flags ∧ (s.capture).rx = s.rx ∧ (s.capture).interp = s.interp ∧ (s.capture).tx = s.tx ∧
    (s.capture).choices = s.choices ∧ (s.capture).pending = s.pending := by unfold State.capture; split <;> simp

@[simp] theorem State.startStep_frame (s : State) :
    (s.startStep).now = s.now ∧ (s.startStep).nResetLow = s.nResetLow ∧ (s.startStep).probes = s.probes ∧
    (s.startStep).profiles = s.profiles ∧ (s.startStep).steps = s.steps ∧ (s.startStep).queue = s.queue ∧
    (s.startStep).rx = s.rx ∧ (s.startStep).interp = s.interp ∧ (s.startStep).tx = s.tx ∧
    (s.startStep).choices = s.choices ∧ (s.startStep).pending = s.pending := by
  unfold State.startStep; split
  · simp
  · dsimp only; split <;> simp

@[simp] theorem State.endRun_now (k : OutcomeKind) (s : State) : (s.endRun k).now = s.now := rfl
@[simp] theorem State.endRun_nResetLow (k : OutcomeKind) (s : State) : (s.endRun k).nResetLow = s.nResetLow := rfl
@[simp] theorem State.endRun_probes (k : OutcomeKind) (s : State) : (s.endRun k).probes = s.probes := rfl
@[simp] theorem State.endRun_profiles (k : OutcomeKind) (s : State) : (s.endRun k).profiles = s.profiles := rfl
@[simp] theorem State.endRun_steps (k : OutcomeKind) (s : State) : (s.endRun k).steps = s.steps := rfl
@[simp] theorem State.endRun_units (k : OutcomeKind) (s : State) : (s.endRun k).units = s.units := rfl
@[simp] theorem State.endRun_queue (k : OutcomeKind) (s : State) : (s.endRun k).queue = s.queue := rfl
@[simp] theorem State.endRun_rx (k : OutcomeKind) (s : State) : (s.endRun k).rx = s.rx := rfl
@[simp] theorem State.endRun_interp (k : OutcomeKind) (s : State) : (s.endRun k).interp = s.interp := rfl
@[simp] theorem State.endRun_tx (k : OutcomeKind) (s : State) : (s.endRun k).tx = s.tx := rfl
@[simp] theorem State.endRun_choices (k : OutcomeKind) (s : State) : (s.endRun k).choices = s.choices := rfl
@[simp] theorem State.endRun_pending (k : OutcomeKind) (s : State) : (s.endRun k).pending = s.pending := rfl

@[simp] theorem State.carryOut_frame (c : Choice) (s : State) :
    (s.carryOut c).now = s.now ∧ (s.carryOut c).nResetLow = s.nResetLow ∧ (s.carryOut c).probes = s.probes ∧
    (s.carryOut c).profiles = s.profiles ∧ (s.carryOut c).steps = s.steps ∧ (s.carryOut c).queue = s.queue ∧
    (s.carryOut c).rx = s.rx ∧ (s.carryOut c).interp = s.interp ∧ (s.carryOut c).tx = s.tx ∧
    (s.carryOut c).choices = s.choices ∧ (s.carryOut c).pending = s.pending := by
  unfold State.carryOut; split
  · simp
  · dsimp only; split <;> simp

@[simp] theorem State.release_now (s : State) : (s.release).now = s.now := rfl
@[simp] theorem State.release_nResetLow (s : State) : (s.release).nResetLow = s.nResetLow := rfl
@[simp] theorem State.release_probes (s : State) : (s.release).probes = s.probes := rfl
@[simp] theorem State.release_profiles (s : State) : (s.release).profiles = s.profiles := rfl
@[simp] theorem State.release_steps (s : State) : (s.release).steps = s.steps := rfl
@[simp] theorem State.release_queue (s : State) : (s.release).queue = s.queue := rfl
@[simp] theorem State.release_flags (s : State) : (s.release).flags = s.flags := rfl
@[simp] theorem State.release_rx (s : State) : (s.release).rx = s.rx := rfl
@[simp] theorem State.release_interp (s : State) : (s.release).interp = s.interp := rfl
@[simp] theorem State.release_tx (s : State) : (s.release).tx = s.tx := rfl
@[simp] theorem State.release_choices (s : State) : (s.release).choices = s.choices := rfl
@[simp] theorem State.release_pending (s : State) : (s.release).pending = s.pending := rfl

@[simp] theorem State.boundaryPulses_frame (v : Verdict) (s : State) :
    (s.boundaryPulses v).now = s.now ∧ (s.boundaryPulses v).nResetLow = s.nResetLow ∧
    (s.boundaryPulses v).probes = s.probes ∧ (s.boundaryPulses v).profiles = s.profiles ∧
    (s.boundaryPulses v).steps = s.steps ∧ (s.boundaryPulses v).units = s.units ∧ (s.boundaryPulses v).seq = s.seq ∧
    (s.boundaryPulses v).queue = s.queue ∧ (s.boundaryPulses v).rx = s.rx ∧ (s.boundaryPulses v).interp = s.interp ∧
    (s.boundaryPulses v).tx = s.tx ∧ (s.boundaryPulses v).choices = s.choices ∧
    (s.boundaryPulses v).pending = s.pending := by unfold State.boundaryPulses; split <;> simp

@[simp] theorem State.boundary_frame (v : Verdict) (s : State) :
    (s.boundary v).now = s.now ∧ (s.boundary v).nResetLow = s.nResetLow ∧ (s.boundary v).probes = s.probes ∧
    (s.boundary v).profiles = s.profiles ∧ (s.boundary v).steps = s.steps ∧ (s.boundary v).queue = s.queue ∧
    (s.boundary v).rx = s.rx ∧ (s.boundary v).interp = s.interp ∧ (s.boundary v).tx = s.tx ∧
    (s.boundary v).choices = s.choices ∧ (s.boundary v).pending = s.pending := by simp [State.boundary]

@[simp] theorem State.postRecords_frame (rs : List ResultRecord) (s : State) :
    (s.postRecords rs).now = s.now ∧ (s.postRecords rs).nResetLow = s.nResetLow ∧
    (s.postRecords rs).probes = s.probes ∧ (s.postRecords rs).profiles = s.profiles ∧
    (s.postRecords rs).steps = s.steps ∧ (s.postRecords rs).units = s.units ∧ (s.postRecords rs).seq = s.seq ∧
    (s.postRecords rs).flags = s.flags ∧ (s.postRecords rs).rx = s.rx ∧ (s.postRecords rs).interp = s.interp ∧
    (s.postRecords rs).choices = s.choices ∧
    (s.postRecords rs).pending = s.pending := by unfold State.postRecords; dsimp only; split <;> simp

@[simp] theorem State.askToPost_frame (v : Verdict) (s : State) :
    (s.askToPost v).now = s.now ∧ (s.askToPost v).nResetLow = s.nResetLow ∧ (s.askToPost v).probes = s.probes ∧
    (s.askToPost v).profiles = s.profiles ∧ (s.askToPost v).steps = s.steps ∧ (s.askToPost v).rx = s.rx ∧
    (s.askToPost v).interp = s.interp ∧ (s.askToPost v).choices = s.choices ∧
    (s.askToPost v).pending = s.pending := by unfold State.askToPost; dsimp only; split <;> simp

@[simp] theorem State.endStep_frame (s : State) :
    (s.endStep).now = s.now ∧ (s.endStep).nResetLow = s.nResetLow ∧ (s.endStep).probes = s.probes ∧
    (s.endStep).profiles = s.profiles ∧ (s.endStep).steps = s.steps ∧ (s.endStep).rx = s.rx ∧
    (s.endStep).interp = s.interp ∧ (s.endStep).choices = s.choices ∧
    (s.endStep).pending = s.pending := by simp [State.endStep]

@[simp] theorem State.askAgain_frame (s : State) :
    (s.askAgain).now = s.now ∧ (s.askAgain).nResetLow = s.nResetLow ∧ (s.askAgain).probes = s.probes ∧
    (s.askAgain).profiles = s.profiles ∧ (s.askAgain).steps = s.steps ∧ (s.askAgain).rx = s.rx ∧
    (s.askAgain).interp = s.interp ∧ (s.askAgain).choices = s.choices ∧
    (s.askAgain).pending = s.pending := by unfold State.askAgain; split <;> simp

@[simp] theorem State.takeReport_frame (c : CloseReport) (s : State) :
    (s.takeReport c).now = s.now ∧ (s.takeReport c).nResetLow = s.nResetLow ∧ (s.takeReport c).probes = s.probes ∧
    (s.takeReport c).profiles = s.profiles ∧ (s.takeReport c).steps = s.steps ∧ (s.takeReport c).rx = s.rx ∧
    (s.takeReport c).interp = s.interp ∧ (s.takeReport c).choices = s.choices ∧
    (s.takeReport c).pending = s.pending := by
  unfold State.takeReport; split
  · simp
  · split
    · dsimp only; split <;> simp
    · simp

@[simp] theorem State.closeUnit_frame (r : CloseReason) (u : Fin 8) (s : State) :
    (s.closeUnit r u).now = s.now ∧ (s.closeUnit r u).nResetLow = s.nResetLow ∧
    (s.closeUnit r u).probes = s.probes ∧ (s.closeUnit r u).profiles = s.profiles ∧
    (s.closeUnit r u).steps = s.steps ∧ (s.closeUnit r u).rx = s.rx ∧ (s.closeUnit r u).interp = s.interp ∧
    (s.closeUnit r u).choices = s.choices ∧
    (s.closeUnit r u).pending = s.pending := by unfold State.closeUnit; split <;> simp

@[simp] theorem State.expireUnit_frame (u : Fin 8) (s : State) :
    (s.expireUnit u).now = s.now ∧ (s.expireUnit u).nResetLow = s.nResetLow ∧ (s.expireUnit u).probes = s.probes ∧
    (s.expireUnit u).profiles = s.profiles ∧ (s.expireUnit u).steps = s.steps ∧ (s.expireUnit u).rx = s.rx ∧
    (s.expireUnit u).interp = s.interp ∧ (s.expireUnit u).choices = s.choices ∧
    (s.expireUnit u).pending = s.pending := by
  unfold State.expireUnit; split
  · simp
  · split <;> simp

@[simp] theorem State.closeAll_frame (r : CloseReason) (us : List (Fin 8)) (s : State) :
    (us.foldl (fun x u => x.closeUnit r u) s).now = s.now ∧
    (us.foldl (fun x u => x.closeUnit r u) s).nResetLow = s.nResetLow ∧
    (us.foldl (fun x u => x.closeUnit r u) s).probes = s.probes ∧
    (us.foldl (fun x u => x.closeUnit r u) s).profiles = s.profiles ∧
    (us.foldl (fun x u => x.closeUnit r u) s).steps = s.steps ∧
    (us.foldl (fun x u => x.closeUnit r u) s).rx = s.rx ∧
    (us.foldl (fun x u => x.closeUnit r u) s).interp = s.interp ∧
    (us.foldl (fun x u => x.closeUnit r u) s).choices = s.choices ∧
    (us.foldl (fun x u => x.closeUnit r u) s).pending = s.pending := by
  induction us generalizing s with
  | nil => simp
  | cons u us ih => simp only [List.foldl_cons, ih, State.closeUnit_frame, and_self]

@[simp] theorem State.expiryAt_frame (u : Fin 8) (s : State) :
    (s.expiryAt u).now = s.now ∧ (s.expiryAt u).nResetLow = s.nResetLow ∧ (s.expiryAt u).probes = s.probes ∧
    (s.expiryAt u).profiles = s.profiles ∧ (s.expiryAt u).steps = s.steps ∧ (s.expiryAt u).rx = s.rx ∧
    (s.expiryAt u).interp = s.interp ∧ (s.expiryAt u).choices = s.choices ∧
    (s.expiryAt u).pending = s.pending := by simp [State.expiryAt]

@[simp] theorem State.expireAll_frame (us : List (Fin 8)) (s : State) :
    (us.foldl (fun x u => x.expiryAt u) s).now = s.now ∧
    (us.foldl (fun x u => x.expiryAt u) s).nResetLow = s.nResetLow ∧
    (us.foldl (fun x u => x.expiryAt u) s).probes = s.probes ∧
    (us.foldl (fun x u => x.expiryAt u) s).profiles = s.profiles ∧
    (us.foldl (fun x u => x.expiryAt u) s).steps = s.steps ∧ (us.foldl (fun x u => x.expiryAt u) s).rx = s.rx ∧
    (us.foldl (fun x u => x.expiryAt u) s).interp = s.interp ∧
    (us.foldl (fun x u => x.expiryAt u) s).choices = s.choices ∧
    (us.foldl (fun x u => x.expiryAt u) s).pending = s.pending := by
  induction us generalizing s with
  | nil => simp
  | cons u us ih => simp only [List.foldl_cons, ih, State.expiryAt_frame, and_self]

@[simp] theorem State.stopRun_now (s : State) : (s.stopRun).now = s.now := rfl
@[simp] theorem State.stopRun_nResetLow (s : State) : (s.stopRun).nResetLow = s.nResetLow := rfl
@[simp] theorem State.stopRun_probes (s : State) : (s.stopRun).probes = s.probes := rfl
@[simp] theorem State.stopRun_profiles (s : State) : (s.stopRun).profiles = s.profiles := rfl
@[simp] theorem State.stopRun_steps (s : State) : (s.stopRun).steps = s.steps := rfl
@[simp] theorem State.stopRun_queue (s : State) : (s.stopRun).queue = s.queue := rfl
@[simp] theorem State.stopRun_rx (s : State) : (s.stopRun).rx = s.rx := rfl
@[simp] theorem State.stopRun_interp (s : State) : (s.stopRun).interp = s.interp := rfl
@[simp] theorem State.stopRun_tx (s : State) : (s.stopRun).tx = s.tx := rfl
@[simp] theorem State.stopRun_choices (s : State) : (s.stopRun).choices = s.choices := rfl
@[simp] theorem State.stopRun_pending (s : State) : (s.stopRun).pending = s.pending := rfl

@[simp] theorem State.setOutcome_now (k : OutcomeKind) (s : State) : (s.setOutcome k).now = s.now := rfl
@[simp] theorem State.setOutcome_nResetLow (k : OutcomeKind) (s : State) : (s.setOutcome k).nResetLow = s.nResetLow :=
  rfl
@[simp] theorem State.setOutcome_probes (k : OutcomeKind) (s : State) : (s.setOutcome k).probes = s.probes := rfl
@[simp] theorem State.setOutcome_profiles (k : OutcomeKind) (s : State) : (s.setOutcome k).profiles = s.profiles :=
  rfl
@[simp] theorem State.setOutcome_steps (k : OutcomeKind) (s : State) : (s.setOutcome k).steps = s.steps := rfl
@[simp] theorem State.setOutcome_units (k : OutcomeKind) (s : State) : (s.setOutcome k).units = s.units := rfl
@[simp] theorem State.setOutcome_queue (k : OutcomeKind) (s : State) : (s.setOutcome k).queue = s.queue := rfl
@[simp] theorem State.setOutcome_flags (k : OutcomeKind) (s : State) : (s.setOutcome k).flags = s.flags := rfl
@[simp] theorem State.setOutcome_rx (k : OutcomeKind) (s : State) : (s.setOutcome k).rx = s.rx := rfl
@[simp] theorem State.setOutcome_interp (k : OutcomeKind) (s : State) : (s.setOutcome k).interp = s.interp := rfl
@[simp] theorem State.setOutcome_tx (k : OutcomeKind) (s : State) : (s.setOutcome k).tx = s.tx := rfl
@[simp] theorem State.setOutcome_choices (k : OutcomeKind) (s : State) : (s.setOutcome k).choices = s.choices := rfl
@[simp] theorem State.setOutcome_pending (k : OutcomeKind) (s : State) : (s.setOutcome k).pending = s.pending := rfl

@[simp] theorem State.planReset_frame (s : State) :
    (s.planReset).now = s.now ∧ (s.planReset).nResetLow = s.nResetLow ∧ (s.planReset).probes = s.probes ∧
    (s.planReset).profiles = s.profiles ∧ (s.planReset).steps = s.steps ∧ (s.planReset).rx = s.rx ∧
    (s.planReset).interp = s.interp ∧ (s.planReset).tx = s.tx ∧ (s.planReset).choices = s.choices ∧
    (s.planReset).pending = s.pending := by unfold State.planReset; dsimp only; split <;> simp

/-! ### Request Interpreter -/

@[simp] theorem State.giveReply_now (g : Byte) (f : OutFrame) (a : Attached) (s : State) : (s.giveReply g f a).now = s.now :=
  rfl
@[simp] theorem State.giveReply_nResetLow (g : Byte) (f : OutFrame) (a : Attached) (s : State) : (s.giveReply g f a).nResetLow = s.nResetLow :=
  rfl
@[simp] theorem State.giveReply_probes (g : Byte) (f : OutFrame) (a : Attached) (s : State) : (s.giveReply g f a).probes = s.probes :=
  rfl
@[simp] theorem State.giveReply_profiles (g : Byte) (f : OutFrame) (a : Attached) (s : State) : (s.giveReply g f a).profiles = s.profiles :=
  rfl
@[simp] theorem State.giveReply_steps (g : Byte) (f : OutFrame) (a : Attached) (s : State) : (s.giveReply g f a).steps = s.steps :=
  rfl
@[simp] theorem State.giveReply_units (g : Byte) (f : OutFrame) (a : Attached) (s : State) : (s.giveReply g f a).units = s.units :=
  rfl
@[simp] theorem State.giveReply_seq (g : Byte) (f : OutFrame) (a : Attached) (s : State) : (s.giveReply g f a).seq = s.seq :=
  rfl
@[simp] theorem State.giveReply_queue (g : Byte) (f : OutFrame) (a : Attached) (s : State) : (s.giveReply g f a).queue = s.queue :=
  rfl
@[simp] theorem State.giveReply_flags (g : Byte) (f : OutFrame) (a : Attached) (s : State) : (s.giveReply g f a).flags = s.flags :=
  rfl
@[simp] theorem State.giveReply_rx (g : Byte) (f : OutFrame) (a : Attached) (s : State) : (s.giveReply g f a).rx = s.rx :=
  rfl
@[simp] theorem State.giveReply_choices (g : Byte) (f : OutFrame) (a : Attached) (s : State) : (s.giveReply g f a).choices = s.choices :=
  rfl
@[simp] theorem State.giveReply_pending (g : Byte) (f : OutFrame) (a : Attached) (s : State) : (s.giveReply g f a).pending = s.pending :=
  rfl

@[simp] theorem State.setMask_now (m : NoticeMask) (s : State) : (s.setMask m).now = s.now := rfl
@[simp] theorem State.setMask_nResetLow (m : NoticeMask) (s : State) : (s.setMask m).nResetLow = s.nResetLow := rfl
@[simp] theorem State.setMask_probes (m : NoticeMask) (s : State) : (s.setMask m).probes = s.probes := rfl
@[simp] theorem State.setMask_profiles (m : NoticeMask) (s : State) : (s.setMask m).profiles = s.profiles := rfl
@[simp] theorem State.setMask_steps (m : NoticeMask) (s : State) : (s.setMask m).steps = s.steps := rfl
@[simp] theorem State.setMask_units (m : NoticeMask) (s : State) : (s.setMask m).units = s.units := rfl
@[simp] theorem State.setMask_seq (m : NoticeMask) (s : State) : (s.setMask m).seq = s.seq := rfl
@[simp] theorem State.setMask_queue (m : NoticeMask) (s : State) : (s.setMask m).queue = s.queue := rfl
@[simp] theorem State.setMask_flags (m : NoticeMask) (s : State) : (s.setMask m).flags = s.flags := rfl
@[simp] theorem State.setMask_rx (m : NoticeMask) (s : State) : (s.setMask m).rx = s.rx := rfl
@[simp] theorem State.setMask_choices (m : NoticeMask) (s : State) : (s.setMask m).choices = s.choices := rfl
@[simp] theorem State.setMask_pending (m : NoticeMask) (s : State) : (s.setMask m).pending = s.pending := rfl

@[simp] theorem State.setProfile_frame (n : Fin 16) (p : Option Profile) (s : State) :
    (s.setProfile n p).now = s.now ∧ (s.setProfile n p).nResetLow = s.nResetLow ∧
    (s.setProfile n p).probes = s.probes ∧ (s.setProfile n p).steps = s.steps ∧ (s.setProfile n p).units = s.units ∧
    (s.setProfile n p).seq = s.seq ∧ (s.setProfile n p).queue = s.queue ∧ (s.setProfile n p).flags = s.flags ∧
    (s.setProfile n p).rx = s.rx ∧ (s.setProfile n p).interp = s.interp ∧ (s.setProfile n p).tx = s.tx ∧
    (s.setProfile n p).choices = s.choices ∧
    (s.setProfile n p).pending = s.pending := by unfold State.setProfile; split <;> simp

/-! ### Units -/

@[simp] theorem State.receive_frame (u : Fin 8) (e : ProbeEdge) (b : Bound) (s : State) :
    (s.receive u e b).now = s.now ∧ (s.receive u e b).nResetLow = s.nResetLow ∧
    (s.receive u e b).probes = s.probes ∧ (s.receive u e b).profiles = s.profiles ∧
    (s.receive u e b).steps = s.steps ∧ (s.receive u e b).rx = s.rx ∧ (s.receive u e b).interp = s.interp ∧
    (s.receive u e b).choices = s.choices ∧ (s.receive u e b).pending = s.pending := by
  unfold State.receive; split
  · simp
  · simp
  · simp
  · dsimp only; split <;> simp

/-! ### Link -/

@[simp] theorem State.linkFault_frame (r : LinkReason) (s : State) :
    (s.linkFault r).now = s.now ∧ (s.linkFault r).nResetLow = s.nResetLow ∧ (s.linkFault r).probes = s.probes ∧
    (s.linkFault r).profiles = s.profiles ∧ (s.linkFault r).steps = s.steps ∧ (s.linkFault r).units = s.units ∧
    (s.linkFault r).seq = s.seq ∧ (s.linkFault r).queue = s.queue ∧ (s.linkFault r).flags = s.flags ∧
    (s.linkFault r).interp = s.interp ∧ (s.linkFault r).choices = s.choices ∧
    (s.linkFault r).pending = s.pending := by simp [State.linkFault]

@[simp] theorem State.rxTo_now (x : RxState) (s : State) : (s.rxTo x).now = s.now := rfl
@[simp] theorem State.rxTo_nResetLow (x : RxState) (s : State) : (s.rxTo x).nResetLow = s.nResetLow := rfl
@[simp] theorem State.rxTo_probes (x : RxState) (s : State) : (s.rxTo x).probes = s.probes := rfl
@[simp] theorem State.rxTo_profiles (x : RxState) (s : State) : (s.rxTo x).profiles = s.profiles := rfl
@[simp] theorem State.rxTo_steps (x : RxState) (s : State) : (s.rxTo x).steps = s.steps := rfl
@[simp] theorem State.rxTo_units (x : RxState) (s : State) : (s.rxTo x).units = s.units := rfl
@[simp] theorem State.rxTo_seq (x : RxState) (s : State) : (s.rxTo x).seq = s.seq := rfl
@[simp] theorem State.rxTo_queue (x : RxState) (s : State) : (s.rxTo x).queue = s.queue := rfl
@[simp] theorem State.rxTo_flags (x : RxState) (s : State) : (s.rxTo x).flags = s.flags := rfl
@[simp] theorem State.rxTo_interp (x : RxState) (s : State) : (s.rxTo x).interp = s.interp := rfl
@[simp] theorem State.rxTo_tx (x : RxState) (s : State) : (s.rxTo x).tx = s.tx := rfl
@[simp] theorem State.rxTo_choices (x : RxState) (s : State) : (s.rxTo x).choices = s.choices := rfl
@[simp] theorem State.rxTo_pending (x : RxState) (s : State) : (s.rxTo x).pending = s.pending := rfl

@[simp] theorem State.rxHunt_now (s : State) : (s.rxHunt).now = s.now := rfl
@[simp] theorem State.rxHunt_nResetLow (s : State) : (s.rxHunt).nResetLow = s.nResetLow := rfl
@[simp] theorem State.rxHunt_probes (s : State) : (s.rxHunt).probes = s.probes := rfl
@[simp] theorem State.rxHunt_profiles (s : State) : (s.rxHunt).profiles = s.profiles := rfl
@[simp] theorem State.rxHunt_steps (s : State) : (s.rxHunt).steps = s.steps := rfl
@[simp] theorem State.rxHunt_units (s : State) : (s.rxHunt).units = s.units := rfl
@[simp] theorem State.rxHunt_seq (s : State) : (s.rxHunt).seq = s.seq := rfl
@[simp] theorem State.rxHunt_queue (s : State) : (s.rxHunt).queue = s.queue := rfl
@[simp] theorem State.rxHunt_flags (s : State) : (s.rxHunt).flags = s.flags := rfl
@[simp] theorem State.rxHunt_interp (s : State) : (s.rxHunt).interp = s.interp := rfl
@[simp] theorem State.rxHunt_tx (s : State) : (s.rxHunt).tx = s.tx := rfl
@[simp] theorem State.rxHunt_choices (s : State) : (s.rxHunt).choices = s.choices := rfl
@[simp] theorem State.rxHunt_pending (s : State) : (s.rxHunt).pending = s.pending := rfl

@[simp] theorem State.handRequest_frame (f : Frame) (s : State) :
    (s.handRequest f).now = s.now ∧ (s.handRequest f).nResetLow = s.nResetLow ∧
    (s.handRequest f).probes = s.probes ∧ (s.handRequest f).profiles = s.profiles ∧
    (s.handRequest f).steps = s.steps ∧ (s.handRequest f).units = s.units ∧ (s.handRequest f).seq = s.seq ∧
    (s.handRequest f).queue = s.queue ∧ (s.handRequest f).flags = s.flags ∧ (s.handRequest f).rx = s.rx ∧
    (s.handRequest f).choices = s.choices ∧ (s.handRequest f).pending = s.pending := by
  unfold State.handRequest; split
  · simp
  · split <;> simp

@[simp] theorem State.endFrame_frame (h : Header) (p : List Byte) (c : Word32) (b0 b1 : Byte) (s : State) :
    (s.endFrame h p c b0 b1).now = s.now ∧ (s.endFrame h p c b0 b1).nResetLow = s.nResetLow ∧
    (s.endFrame h p c b0 b1).probes = s.probes ∧ (s.endFrame h p c b0 b1).profiles = s.profiles ∧
    (s.endFrame h p c b0 b1).steps = s.steps ∧ (s.endFrame h p c b0 b1).units = s.units ∧
    (s.endFrame h p c b0 b1).seq = s.seq ∧ (s.endFrame h p c b0 b1).queue = s.queue ∧
    (s.endFrame h p c b0 b1).flags = s.flags ∧ (s.endFrame h p c b0 b1).choices = s.choices ∧
    (s.endFrame h p c b0 b1).pending = s.pending := by
  unfold State.endFrame; split
  · simp
  · split <;> simp

@[simp] theorem State.takeHeader_frame (g : List Byte) (c : Word32) (b : Byte) (s : State) :
    (s.takeHeader g c b).now = s.now ∧ (s.takeHeader g c b).nResetLow = s.nResetLow ∧
    (s.takeHeader g c b).probes = s.probes ∧ (s.takeHeader g c b).profiles = s.profiles ∧
    (s.takeHeader g c b).steps = s.steps ∧ (s.takeHeader g c b).units = s.units ∧ (s.takeHeader g c b).seq = s.seq ∧
    (s.takeHeader g c b).queue = s.queue ∧ (s.takeHeader g c b).flags = s.flags ∧
    (s.takeHeader g c b).choices = s.choices ∧ (s.takeHeader g c b).pending = s.pending := by
  unfold State.takeHeader; dsimp only; split
  · split <;> simp
  · split <;> simp
  · simp

@[simp] theorem State.takeBody_frame (h : Header) (p : List Byte) (c : Word32) (b : Byte) (s : State) :
    (s.takeBody h p c b).now = s.now ∧ (s.takeBody h p c b).nResetLow = s.nResetLow ∧
    (s.takeBody h p c b).probes = s.probes ∧ (s.takeBody h p c b).profiles = s.profiles ∧
    (s.takeBody h p c b).steps = s.steps ∧ (s.takeBody h p c b).units = s.units ∧ (s.takeBody h p c b).seq = s.seq ∧
    (s.takeBody h p c b).queue = s.queue ∧ (s.takeBody h p c b).flags = s.flags ∧
    (s.takeBody h p c b).choices = s.choices ∧
    (s.takeBody h p c b).pending = s.pending := by unfold State.takeBody; dsimp only; split <;> simp

@[simp] theorem State.assemble_frame (b : Byte) (s : State) :
    (s.assemble b).now = s.now ∧ (s.assemble b).nResetLow = s.nResetLow ∧ (s.assemble b).probes = s.probes ∧
    (s.assemble b).profiles = s.profiles ∧ (s.assemble b).steps = s.steps ∧ (s.assemble b).units = s.units ∧
    (s.assemble b).seq = s.seq ∧ (s.assemble b).queue = s.queue ∧ (s.assemble b).flags = s.flags ∧
    (s.assemble b).choices = s.choices ∧ (s.assemble b).pending = s.pending := by
  unfold State.assemble; split
  · split <;> simp
  all_goals simp

@[simp] theorem State.recoverLink_frame (s : State) :
    (s.recoverLink).now = s.now ∧ (s.recoverLink).nResetLow = s.nResetLow ∧ (s.recoverLink).probes = s.probes ∧
    (s.recoverLink).profiles = s.profiles ∧ (s.recoverLink).steps = s.steps ∧ (s.recoverLink).units = s.units ∧
    (s.recoverLink).seq = s.seq ∧ (s.recoverLink).queue = s.queue ∧ (s.recoverLink).flags = s.flags ∧
    (s.recoverLink).choices = s.choices ∧ (s.recoverLink).pending = s.pending := by simp [State.recoverLink]

@[simp] theorem State.switchRate_frame (r : LinkRate) (s : State) :
    (s.switchRate r).now = s.now ∧ (s.switchRate r).nResetLow = s.nResetLow ∧ (s.switchRate r).probes = s.probes ∧
    (s.switchRate r).profiles = s.profiles ∧ (s.switchRate r).steps = s.steps ∧ (s.switchRate r).units = s.units ∧
    (s.switchRate r).seq = s.seq ∧ (s.switchRate r).queue = s.queue ∧ (s.switchRate r).flags = s.flags ∧
    (s.switchRate r).interp = s.interp ∧ (s.switchRate r).tx = s.tx ∧ (s.switchRate r).choices = s.choices ∧
    (s.switchRate r).pending = s.pending := by unfold State.switchRate; split <;> simp

/-! ### Resets -/

@[simp] theorem State.fullReset_now (s : State) : (s.fullReset).now = s.now := rfl
@[simp] theorem State.fullReset_nResetLow (s : State) : (s.fullReset).nResetLow = s.nResetLow := rfl
@[simp] theorem State.fullReset_choices (s : State) : (s.fullReset).choices = s.choices := rfl
@[simp] theorem State.fullReset_pending (s : State) : (s.fullReset).pending = s.pending := rfl

@[simp] theorem State.takeBreak_frame (s : State) :
    (s.takeBreak).now = s.now ∧ (s.takeBreak).nResetLow = s.nResetLow ∧ (s.takeBreak).choices = s.choices ∧
    (s.takeBreak).pending = s.pending := by unfold State.takeBreak; split <;> simp

@[simp] theorem State.applyAttached_frame (a : Attached) (s : State) :
    (s.applyAttached a).now = s.now ∧ (s.applyAttached a).nResetLow = s.nResetLow ∧
    (s.applyAttached a).choices = s.choices ∧
    (s.applyAttached a).pending = s.pending := by unfold State.applyAttached; split <;> simp

@[simp] theorem State.cleared_now (x : Receiver) (p : Vector ProbeLine 16) (s : State) : (s.cleared x p).now = s.now :=
  rfl
@[simp] theorem State.cleared_choices (x : Receiver) (p : Vector ProbeLine 16) (s : State) : (s.cleared x p).choices = s.choices :=
  rfl
@[simp] theorem State.cleared_pending (x : Receiver) (p : Vector ProbeLine 16) (s : State) : (s.cleared x p).pending = s.pending :=
  rfl

end Sys2Proof.Machine
end

