-- ==== Sys2Proof/Laws/Requests.lean ====
section
/-! SUPPORT. What a taking does: one lemma for the arbiter, one for a taking that comes about, and the frames of a
taking that touches nothing but the interpreter and the transmitter. -/

namespace Sys2Proof.Machine

/-! ### The arbiter and the end of a happening -/

/-- The arbiter chooses from a reply queue that is not empty. -/
theorem State.arbitrate_of_queue (s : State) (q : QueuedReply) (more : List QueuedReply) (hr : s.nResetLow = false)
    (hf : s.tx.inFlight = none) (hq : s.tx.queue = q :: more) :
    s.arbitrate = { s with tx := { s.tx with
      queue := more
      inFlight := some { frame := q.frame, role := q.role, attached := q.attached,
                         beganAt := max s.now s.tx.freeAt, rate := s.rx.rate } } } := by
  simp [State.arbitrate, Transmitter.choose, hr, hf, hq]

/-- The arbiter leaves a busy TXD alone. -/
theorem State.arbitrate_of_busy (s : State) (h : s.tx.inFlight ≠ none) : s.arbitrate = s := by
  cases hf : s.tx.inFlight with
  | none => exact absurd hf h
  | some f => simp [State.arbitrate, hf]

/-- While nRESET is low the arbiter sends nothing. -/
theorem State.arbitrate_of_reset (s : State) (h : s.nResetLow = true) : s.arbitrate = s := by
  simp [State.arbitrate, h]

/-- With a reply waiting, the arbiter leaves the pending notices as they are. -/
theorem State.arbitrate_notices (s : State) (hq : s.tx.queue ≠ []) :
    s.arbitrate.tx.start = s.tx.start ∧ s.arbitrate.tx.link = s.tx.link ∧ s.arbitrate.tx.plan = s.tx.plan ∧
      s.arbitrate.tx.results = s.tx.results := by
  cases hl : s.nResetLow with
  | true => simp [State.arbitrate_of_reset s hl]
  | false =>
    cases hf : s.tx.inFlight with
    | some f => simp [State.arbitrate_of_busy s (by simp [hf])]
    | none =>
      obtain ⟨q, more, hq⟩ := List.exists_cons_of_ne_nil hq
      simp [State.arbitrate_of_queue s q more hl hf hq]

/-- The arbiter's choice depends on the reset line, the instant, the rate and the transmitter alone. -/
theorem State.arbitrate_tx_congr {a b : State} (hl : a.nResetLow = b.nResetLow) (hn : a.now = b.now)
    (hr : a.rx.rate = b.rx.rate) (ht : a.tx = b.tx) : a.arbitrate.tx = b.arbitrate.tx := by
  unfold State.arbitrate
  rw [hl, ht]
  split
  · exact ht
  · cases b.tx.choose with
    | none => exact ht
    | some c => simp [hn, hr]

/-- A transmitter that stands before the arbiter's choice is sent from, whatever else of the state stands after it. -/
theorem State.arbitrate_sentFrom (s : State) (x : Transmitter) (h : s.tx = x) : sentFrom x s.arbitrate :=
  State.arbitrate_tx_congr (by simp) (by simp) (by simp) h

/-- A line with no change of target notes nothing; with none on any line, noting changes nothing. -/
theorem State.noteTargets_of_same (s b : State)
    (h : ∀ n : Fin 4, b.targetOf b.flags[n] = s.targetOf s.flags[n]) : s.noteTargets b = s := by
  unfold State.noteTargets
  rw [show (fun n : Fin 4 => if b.targetOf b.flags[n] = s.targetOf s.flags[n] then s.flags[n]
      else (s.flags[n]).note (s.targetOf s.flags[n])) = fun n => s.flags[n] from funext fun n => if_pos (h n)]
  simp only [Fin.getElem_fin, Vector.ofFn_getElem]

/-- The target of a line depends on the instant, the plan, the units and the queue alone. -/
theorem State.targetOf_congr {s b : State} (hn : b.now = s.now) (hp : b.seq.plan = s.seq.plan)
    (hu : b.units = s.units) (hq : b.queue = s.queue) (f : FlagLine) : b.targetOf f = s.targetOf f := by
  have : b.windowSignal = s.windowSignal := by
    simp only [State.windowSignal]; congr 1; funext u; simp [State.isOpen, hu]
  cases f with
  | mk src => cases src <;> simp [State.targetOf, State.sourceValue, hn, hp, hq, this]

/-- The flags after noting, one line at a time. -/
theorem State.noteTargets_lines (s b s' : State) (hf : s'.flags = (s.noteTargets b).flags)
    (ht : ∀ f, s'.targetOf f = s.targetOf f) : linesNoted b s' (fun n => s.flags[n]) := by
  intro n
  rw [hf]
  simp [State.noteTargets, ht]

/-- The flags at the end of a happening are those that noting leaves. -/
theorem State.finish_flags (s b : State) : (s.finish b).flags = (s.noteTargets b).flags := by
  simp only [State.finish, State.arbitrate_frame]
  have : ∀ x y : State, x.flags = y.flags → (∀ f, x.targetOf f = y.targetOf f) →
      (x.noteTargets b).flags = (y.noteTargets b).flags := by
    intro x y h1 h2
    simp [State.noteTargets, h1, h2]
  exact this _ _ (by simp) (State.targetOf_congr (by simp) (by simp) (by simp) (by simp))

/-- Every line noted, as the end of a happening leaves it. -/
theorem State.finish_lines (s b : State) : linesNoted b (s.finish b) (fun n => s.flags[n]) :=
  State.noteTargets_lines s b _ (State.finish_flags s b)
    (State.targetOf_congr (by simp) (by simp) (by simp) (by simp))

/-- At the end of a happening that left the targets alone, no flag line has changed. -/
theorem State.finish_flags_of_same (s b : State) (hf : s.flags = b.flags) (hn : b.now = s.now)
    (hp : b.seq.plan = s.seq.plan) (hu : b.units = s.units) (hq : b.queue = s.queue) :
    (s.finish b).flags = b.flags := by
  rw [State.finish_flags, State.noteTargets_of_same s b (fun n => by rw [hf, State.targetOf_congr hn hp hu hq]), hf]

/-! ### A taking that comes about -/

/-- A taking by the row that recognises the frame: the frame leaves, its rule acts, its reply is given, and the
happening ends. -/
theorem State.takeRequest_of_takes {s : State} {f : Frame} {rest : List Frame} (h : Takes s f rest)
    {row : Frame → Bool} (hr : row f = true) (body : List Byte → State → State × Reply) (t : Nat) :
    (s.advance t).takeRequest row body =
      ((body f.payload ((s.advance t).popped rest)).1.giveReply f.tag
        (replyFrame f (body f.payload ((s.advance t).popped rest)).2)
        (body f.payload ((s.advance t).popped rest)).2.attached).finish (s.advance t) := by
  have h1 := h.oldest
  have h2 : (s.advance t).mayTake = true := h.free
  have h3 := h.fresh
  unfold State.takeRequest State.treat
  simp only [State.advance_interp, h1, h2, hr, Bool.and_self, ite_true]
  cases hc : f.retry with
  | false => simp [State.popped]
  | true => simp [State.popped, Interpreter.cached, show (s.interp.cache.find? fun e => decide (e.tag = f.tag)) = none by simpa [Interpreter.cached] using h3 hc]

/-- What the interpreter and the transmitter hold at the end of a taking. -/
theorem State.giveReply_finish (x b : State) (tag : Byte) (g : OutFrame) (a : Attached) :
    let y := (x.giveReply tag g a).finish b
    y.interp = { x.interp with cache := writeCache tag g x.interp.cache } ∧
    y.tx.start = x.tx.start ∧ y.tx.link = x.tx.link ∧ y.tx.results = x.tx.results ∧
    y.tx.plan = ((x.giveReply tag g a).noticePlan b).tx.plan ∧ replyGiven g a x y := by
  intro y
  have key : ((x.giveReply tag g a).noticePlan b).tx.queue =
        x.tx.queue ++ [{ frame := g, role := .reply, attached := a }] ∧
      ((x.giveReply tag g a).noticePlan b).tx.inFlight = x.tx.inFlight ∧
      ((x.giveReply tag g a).noticePlan b).tx.freeAt = x.tx.freeAt ∧
      ((x.giveReply tag g a).noticePlan b).tx.start = x.tx.start ∧
      ((x.giveReply tag g a).noticePlan b).tx.link = x.tx.link ∧
      ((x.giveReply tag g a).noticePlan b).tx.results = x.tx.results := by
    unfold State.noticePlan State.raisePlan; split
    · exact ⟨rfl, rfl, rfl, rfl, rfl, rfl⟩
    · split <;> exact ⟨rfl, rfl, rfl, rfl, rfl, rfl⟩
  obtain ⟨kq, kf, ka, ks, kl, kr⟩ := key
  have ht : ∀ z : State, (z.noteTargets b).tx = z.tx := fun z => rfl
  have hn := State.arbitrate_notices (((x.giveReply tag g a).noticePlan b).noteTargets b) (by rw [ht, kq]; simp)
  rw [ht] at hn
  exact ⟨by simp [y]; rfl, hn.1.trans ks, hn.2.1.trans kl, hn.2.2.2.trans kr, hn.2.2.1,
    ((x.giveReply tag g a).noticePlan b).tx, kq, kf, ka, State.arbitrate_sentFrom _ _ (ht _)⟩

/-- The reply given depends on the reply queue, the frame in flight and the instant TXD is free. -/
theorem replyGiven_of_tx {g : OutFrame} {a : Attached} {s x y : State} (hq : x.tx.queue = s.tx.queue)
    (hf : x.tx.inFlight = s.tx.inFlight) (ha : x.tx.freeAt = s.tx.freeAt) (h : replyGiven g a x y) :
    replyGiven g a s y := by
  obtain ⟨z, h1, h2, h3, h4⟩ := h
  exact ⟨z, hq ▸ h1, h2.trans hf, h3.trans ha, h4⟩

/-- No PLAN notice comes of a happening that keeps the plan condition. -/
theorem State.noticePlan_of_same (s b : State) (h : b.seq.plan.condition = s.seq.plan.condition) :
    s.noticePlan b = s := by simp [State.noticePlan, h]

/-- A PLAN notice of a happening that changes the plan condition. -/
theorem State.noticePlan_of_changed (s b : State) (h : b.seq.plan.condition ≠ s.seq.plan.condition) :
    s.noticePlan b = s.raisePlan := by simp [State.noticePlan, h]

/-- A taking whose rule reaches neither the interpreter nor the transmitter ends answered, where its cache write is as
spec/09 R159 says. -/
theorem State.taking_answered {s : State} {f : Frame} {rest : List Frame} (h : Takes s f rest)
    {row : Frame → Bool} (hr : row f = true) {body : List Byte → State → State × Reply} {t : Nat} {p : List Byte}
    {x : State} {r : Reply} (hb : body f.payload ((s.advance t).popped rest) = (x, r)) (hp : r.payload = p)
    (hi : x.interp = ((s.advance t).popped rest).interp) (hx : x.tx = s.tx)
    (hw : cacheWritten f.tag (replyTo f p) s.interp.cache (writeCache f.tag (replyTo f p) s.interp.cache)) :
    answeredWith r.attached f rest p s ((s.advance t).takeRequest row body) := by
  have key := State.takeRequest_of_takes h hr body t
  rw [hb] at key
  have hf : replyFrame f r = replyTo f p := by simp [replyFrame, replyTo, hp]
  have fin := State.giveReply_finish x (s.advance t) f.tag (replyFrame f r) r.attached
  simp only at key fin
  rw [hf] at key fin
  rw [key]
  refine ⟨by rw [fin.1, hi]; rfl, ?_, replyGiven_of_tx (by rw [hx]) (by rw [hx]) (by rw [hx]) fin.2.2.2.2.2⟩
  rw [fin.1, hi]
  exact hw

/-- A taking whose rule leaves the state as it is and attaches nothing is answered and touches nothing else, where its
cache write is as spec/09 R159 says. -/
theorem State.taking_answeredOnly {s : State} {f : Frame} {rest : List Frame} (h : Takes s f rest)
    {row : Frame → Bool} (hr : row f = true) {body : List Byte → State → State × Reply} {t : Nat} {p : List Byte}
    {r : Reply} (hb : body f.payload ((s.advance t).popped rest) = ((s.advance t).popped rest, r))
    (hp : r.payload = p) (ha : r.attached = .nothing)
    (hw : cacheWritten f.tag (replyTo f p) s.interp.cache (writeCache f.tag (replyTo f p) s.interp.cache)) :
    answeredOnly f rest p s ((s.advance t).takeRequest row body) := by
  have ans := State.taking_answered h hr hb hp rfl rfl hw
  rw [ha] at ans
  have key := State.takeRequest_of_takes h hr body t
  rw [hb] at key
  have fin := State.giveReply_finish ((s.advance t).popped rest) (s.advance t) f.tag (replyFrame f r) r.attached
  have fl := State.finish_flags_of_same
    (((s.advance t).popped rest).giveReply f.tag (replyFrame f r) r.attached) (s.advance t) rfl rfl rfl rfl rfl
  simp only at key fin
  refine ⟨ans, ?_, ?_, ?_⟩
  · rw [key]; exact ⟨by rw [fin.1]; rfl, by rw [fin.1]; rfl⟩
  · rw [key]
    refine ⟨fin.2.1, fin.2.2.1, ?_, fin.2.2.2.1⟩
    rw [fin.2.2.2.2.1, State.noticePlan_of_same _ _ (by simp [State.popped])]; rfl
  · rw [key]
    refine ⟨?_, by simp; rfl, by simp; rfl, by simp; rfl⟩
    intro b hb'
    cases b <;> simp [sameBlock] at hb' ⊢ <;> first | rfl | exact fl

/-- What stands at the end of a taking of `f` whose rule left state `x` and attached `a`: the reply given, the notices,
the flag lines noted, and every other block as the rule left it. -/
structure TakingEnds (f : Frame) (rest : List Frame) (p : List Byte) (a : Attached) (s x s' : State) (t : Nat) :
    Prop where
  requests : s'.interp.requests = rest
  given : replyGiven (replyTo f p) a s s'
  interp : s'.interp = { x.interp with cache := writeCache f.tag (replyTo f p) x.interp.cache }
  notices : s'.tx.start = x.tx.start ∧ s'.tx.link = x.tx.link ∧ s'.tx.results = x.tx.results
  planKept : s.seq.plan.condition = x.seq.plan.condition → s'.tx.plan = x.tx.plan
  planRaised : s.seq.plan.condition ≠ x.seq.plan.condition → x.tx.plan = s.tx.plan →
    x.interp.mask = s.interp.mask → planNoticed s s'
  now : s'.now = x.now
  nResetLow : s'.nResetLow = x.nResetLow
  probes : s'.probes = x.probes
  profiles : s'.profiles = x.profiles
  steps : s'.steps = x.steps
  units : s'.units = x.units
  seq : s'.seq = x.seq
  queue : s'.queue = x.queue
  rx : s'.rx = x.rx
  pending : s'.pending = x.pending
  choices : s'.choices = x.choices
  lines : linesNoted (s.advance t) s' (fun n => x.flags[n])
  flagsKept : (∀ n : Fin 4, (s.advance t).targetOf s.flags[n] = x.targetOf x.flags[n]) → s'.flags = x.flags

/-- A taking ends as its rule leaves it (spec/09 R158). -/
theorem State.taking_ends {s : State} {f : Frame} {rest : List Frame} (h : Takes s f rest)
    {row : Frame → Bool} (hr : row f = true) {body : List Byte → State → State × Reply} {t : Nat} {p : List Byte}
    {x : State} {r : Reply} (hb : body f.payload ((s.advance t).popped rest) = (x, r)) (hp : r.payload = p)
    (hq : x.interp.requests = rest) (hw : x.tx.queue = s.tx.queue) (hi : x.tx.inFlight = s.tx.inFlight)
    (ha : x.tx.freeAt = s.tx.freeAt) : TakingEnds f rest p r.attached s x ((s.advance t).takeRequest row body) t := by
  have key := State.takeRequest_of_takes h hr body t
  rw [hb] at key
  have hf : replyFrame f r = replyTo f p := by simp [replyFrame, replyTo, hp]
  have fin := State.giveReply_finish x (s.advance t) f.tag (replyFrame f r) r.attached
  have fl := State.finish_lines (x.giveReply f.tag (replyFrame f r) r.attached) (s.advance t)
  have ff := State.finish_flags (x.giveReply f.tag (replyFrame f r) r.attached) (s.advance t)
  simp only at key fin
  rw [hf] at key fin fl ff
  refine
    { requests := by rw [key, fin.1]; exact hq
      given := by rw [key]; exact replyGiven_of_tx hw hi ha fin.2.2.2.2.2
      interp := by rw [key]; exact fin.1
      notices := by rw [key]; exact ⟨fin.2.1, fin.2.2.1, fin.2.2.2.1⟩
      planKept := ?_, planRaised := ?_
      now := by simp [key], nResetLow := by simp [key], probes := by simp [key], profiles := by simp [key]
      steps := by simp [key], units := by simp [key], seq := by simp [key], queue := by simp [key]
      rx := by simp [key], pending := by simp [key], choices := by simp [key]
      lines := by rw [key]; exact fl
      flagsKept := ?_ }
  · intro hcond
    rw [key, fin.2.2.2.2.1, State.noticePlan_of_same _ _ (by simpa using hcond)]
    rfl
  · intro hcond hplan hmask
    unfold planNoticed
    rw [key, fin.2.2.2.2.1, State.noticePlan_of_changed _ _ (by simpa using hcond)]
    have h1 : ((x.giveReply f.tag (replyTo f p) r.attached).finish (s.advance t)).seq = x.seq := by simp
    rw [h1]
    unfold State.raisePlan
    simp only [State.giveReply, hmask]
    split
    · simp [bumpCount, hplan]
    · exact hplan
  · intro ht
    rw [key, ff, State.noteTargets_of_same]
    · rfl
    · intro n
      exact (ht n).trans (State.targetOf_congr rfl rfl rfl rfl _)
end Sys2Proof.Machine
end

