-- ==== Sys2Proof/Laws/Plan.lean ====
section
/-! SUPPORT. What the operations of the Plan Sequencer do: the arm of the units, the start of a step, and the end of
the settle time, each said once. -/

namespace Sys2Proof.Machine

/-! ### Step numbers (spec/04 R68) -/

/-- The lowest defined step of a range. -/
theorem State.firstDefined_eq_some (s : State) (first last : Nat) (n : Fin 96) (h1 : first ≤ n.val) (h2 : n.val ≤ last)
    (hd : s.steps[n] ≠ none) (hlow : ∀ m : Fin 96, first ≤ m.val → m < n → s.steps[m] = none) :
    s.firstDefined first last = some n := by
  unfold State.firstDefined
  rw [List.find?_eq_some_iff_getElem]
  refine ⟨by simpa [h1, h2, Option.isSome_iff_ne_none] using hd, n.val, by simp, by simp, fun j hj => ?_⟩
  by_cases hm : first ≤ j
  · have := hlow ⟨j, by omega⟩ hm hj
    simp only [Fin.getElem_fin] at this
    simp [this]
  · simp [hm]

/-- No step of a range is defined. -/
theorem State.firstDefined_eq_none (s : State) (first last : Nat)
    (h : ∀ m : Fin 96, first ≤ m.val → m.val ≤ last → s.steps[m] = none) : s.firstDefined first last = none := by
  unfold State.firstDefined
  rw [List.find?_eq_none]
  intro m _ hm
  simp only [Bool.and_eq_true, decide_eq_true_eq] at hm
  simp [h m hm.1.1 hm.1.2] at hm

/-! ### The arm of the units -/

/-- An arm reaches the units alone. -/
theorem State.armLane_eq (l : Lane) (s : State) : ∃ us, s.armLane l = { s with units := us } := by
  unfold State.armLane; split
  · exact ⟨s.units, rfl⟩
  · exact ⟨_, rfl⟩

/-- Arms reach the units alone. -/
theorem State.armAll_eq (ls : List Lane) (s : State) : ∃ us, s.armAll ls = { s with units := us } := by
  induction ls generalizing s with
  | nil => exact ⟨s.units, rfl⟩
  | cons l ls ih =>
    obtain ⟨us, h1⟩ := ih (s.armLane l)
    obtain ⟨vs, h2⟩ := State.armLane_eq l s
    exact ⟨us, by show (s.armLane l).armAll ls = _; rw [h1, h2]⟩

/-- A slot holds after an arm what it held before. -/
theorem State.armLane_profileAt (l : Lane) (s : State) (k : Fin 16) : (s.armLane l).profileAt k = s.profileAt k := by
  obtain ⟨us, h⟩ := State.armLane_eq l s
  rw [h]; rfl

/-- A unit that no lane names stands as before. -/
theorem State.armAll_unit_of_unnamed (ls : List Lane) (s : State) (u : Fin 8) (h : ∀ l ∈ ls, l.unit ≠ u) :
    (s.armAll ls).units[u] = s.units[u] := by
  induction ls generalizing s with
  | nil => rfl
  | cons l ls ih =>
    show ((s.armLane l).armAll ls).units[u] = _
    rw [ih (s.armLane l) fun x hx => h x (List.mem_cons_of_mem _ hx)]
    have hl := h l (List.mem_cons_self ..)
    unfold State.armLane; split
    · rfl
    · simp only [Fin.getElem_fin]
      exact Vector.getElem_set_ne _ _ fun e => hl (Fin.ext e)

/-- A unit that a lane names is armed with that lane and the contents of its slot (spec/03 R36). -/
theorem State.armAll_unit_of_lane (ls : List Lane) (s : State) (l : Lane) (p : Profile)
    (hnd : (ls.map (·.unit)).Nodup) (hl : l ∈ ls) (hp : s.profileAt l.profile = some p) :
    (s.armAll ls).units[l.unit] = some (Bound.armed s.now l p) := by
  induction ls generalizing s with
  | nil => cases hl
  | cons x ls ih =>
    show ((s.armLane x).armAll ls).units[l.unit] = _
    simp only [List.map_cons, List.nodup_cons] at hnd
    rcases List.mem_cons.mp hl with rfl | hl
    · rw [State.armAll_unit_of_unnamed ls _ l.unit fun y hy e => hnd.1 (List.mem_map.mpr ⟨y, hy, e⟩)]
      simp [State.armLane, hp]
    · have hn : (s.armLane x).now = s.now := by
        obtain ⟨us, h⟩ := State.armLane_eq x s
        rw [h]
      rw [ih (s.armLane x) hnd.2 hl (by rw [State.armLane_profileAt, hp]), hn]

/-! ### The end of the settle time and the start of a step (spec/05 R84, R85) -/

/-- What the end of the settle time leaves. -/
theorem State.capture_eq (s : State) (r : StepRecord) (h : s.seq.stepCopy = some r) :
    s.capture = { s with
      units := (s.armAll r.lanes).units
      seq := { s.seq with
        plan := .capturing, settleEndAt := none,
        stepTimerAt := if r.timeLimit = 0 then none else some (s.now + millis r.timeLimit) } } := by
  obtain ⟨us, e⟩ := State.armAll_eq r.lanes s
  simp only [State.capture, h, e]

/-- The start of a step whose slot holds a record: without a settle time the units are armed at once. -/
theorem State.startStep_eq (s : State) (r : StepRecord) (h : s.steps[s.seq.step] = some r) :
    s.startStep =
      let s1 := { s with
        seq := { s.seq with stepCopy := some r, reports := Vector.replicate 8 none, stepStart := s.runClock }
        flags := (s.applyPattern r.pattern).flags }
      if 0 < r.settle.getD 0 then
        { s1 with seq := { s1.seq with
          plan := .settling, settleEndAt := some (s.now + micros (r.settle.getD 0)) } }
      else s1.capture := by
  have e : ∀ x : State, x.applyPattern r.pattern = { x with flags := (x.applyPattern r.pattern).flags } := by
    intro x; unfold State.applyPattern; split <;> rfl
  simp only [State.startStep, h]
  rw [e]
  cases hs : r.settle.getD 0 with
  | zero =>
    simp only [Nat.lt_irrefl, ite_false]
    congr 1
    simp [State.applyPattern]
    cases r.pattern <;> rfl
  | succ n =>
    simp only [Nat.succ_pos, ite_true]
    simp [State.applyPattern]
    cases r.pattern <;> rfl

/-- What `capturing` says, of the state that the end of the settle time leaves. -/
theorem State.capture_capturing (s : State) (r : StepRecord) (hr : s.seq.stepCopy = some r)
    (hw : r.wellFormed s.widthAt = true) : capturing r s s.capture := by
  have hnd : (r.lanes.map (·.unit)).Nodup := by
    simp only [StepRecord.wellFormed, Bool.and_eq_true, decide_eq_true_eq] at hw
    exact hw.1.1.1.1.2
  rw [State.capture_eq s r hr]
  refine ⟨rfl, rfl, rfl, fun l hl p hp => ?_, fun u hu => State.armAll_unit_of_unnamed r.lanes s u hu⟩
  have := State.armAll_unit_of_lane r.lanes s l p hnd hl hp
  simp only at this ⊢
  rw [this]
  cases hs : l.start <;> simp [Bound.armed, Bound.arm, Bound.openWindow, hs]

/-- A pattern gives each line the level it names. -/
theorem State.applyPattern_line (s : State) (r : StepRecord) (n : Fin 4) :
    (s.applyPattern r.pattern).flags[n] = patterned r n s.flags[n] := by
  unfold State.applyPattern patterned
  cases r.pattern with
  | none => rfl
  | some v =>
    cases h : v[n.val] <;> simp only [Fin.getElem_fin, Vector.getElem_ofFn, h]

/-- A step starts as R84 and R85 say. -/
theorem State.startStep_begins (x : State) (r : StepRecord) (h : x.steps[x.seq.step] = some r)
    (hw : r.wellFormed x.widthAt = true) : StepBegins r x x.startStep := by
  have hl := State.applyPattern_line x r
  rw [State.startStep_eq x r h]
  by_cases hs : 0 < r.settle.getD 0
  · simp only [hs, ite_true]
    constructor <;> first | rfl | exact hl | (intro i; simp) | simp [hs]
  · simp only [hs, ite_false]
    generalize hz : ({ x with
      seq := { x.seq with stepCopy := some r, reports := Vector.replicate 8 none, stepStart := x.runClock }
      flags := (x.applyPattern r.pattern).flags } : State) = z
    have hcopy : z.seq.stepCopy = some r := by rw [← hz]
    have hwz : r.wellFormed z.widthAt = true := by rw [← hz]; exact hw
    have hcap := State.capture_capturing z r hcopy hwz
    rw [State.capture_eq z r hcopy] at hcap ⊢
    subst hz
    constructor <;> first | rfl | exact hl | (intro i; simp) | skip
    rw [if_neg hs]
    exact hcap

end Sys2Proof.Machine
end

