-- ==== Sys2Proof/Laws/Flags.lean ====
section
/-! SUPPORT. What the stretcher of a flag line does, said once: a running hold keeps the output, and a change of output
starts a hold of the width in force (spec/07 R129, R130). -/

namespace Sys2Proof.Machine

/-- From `f` to `g` at instant `now`: an output whose hold runs stands with its hold end, a changed output has a hold of
the width in force, and an unchanged one has no new hold. -/
structure FlagLine.KeepsWidth (now : Nat) (f g : FlagLine) : Prop where
  held : ∀ h, f.holdEnd = some h → now < h → g.output = f.output ∧ g.holdEnd = some h
  changed : g.output ≠ f.output → g.holdEnd = if g.width = 0 then none else some (now + micros g.width)
  unchanged : g.output = f.output → g.holdEnd = f.holdEnd ∨ g.holdEnd = none

/-- The stretcher in its cases (R129). -/
theorem FlagLine.stretch_cases (now : Nat) (f : FlagLine) :
    (((∃ h, f.holdEnd = some h ∧ now < h) ∨ f.output = f.target) ∧ f.stretch now = f) ∨
      ((∀ h, f.holdEnd = some h → h ≤ now) ∧ f.output ≠ f.target ∧
        f.stretch now =
          { f with output := f.target, holdEnd := if f.width = 0 then none else some (now + micros f.width) }) := by
  unfold FlagLine.stretch FlagLine.holdRunning
  cases hh : f.holdEnd with
  | none =>
    by_cases ho : f.output = f.target
    · left; simp [ho]
    · right; simp [ho]
  | some h =>
    by_cases hn : now < h
    · left; simp [hn]
    · by_cases ho : f.output = f.target
      · left; simp [ho]
      · right; simp [ho, hn]; omega

/-- The stretcher changes output and hold end alone. -/
theorem FlagLine.stretch_frame (now : Nat) (f : FlagLine) :
    (f.stretch now).source = f.source ∧ (f.stretch now).invert = f.invert ∧ (f.stretch now).width = f.width ∧
      (f.stretch now).hostLevel = f.hostLevel ∧ (f.stretch now).restLevel = f.restLevel ∧
      (f.stretch now).patternLevel = f.patternLevel ∧ (f.stretch now).pulseEnd = f.pulseEnd ∧
      (f.stretch now).target = f.target ∧ (f.stretch now).changes = f.changes := by
  rcases f.stretch_cases now with ⟨-, h⟩ | ⟨-, -, h⟩ <;> rw [h] <;> simp

/-- With no hold end, a line that has been through the stretcher shows its target (R125, R129). -/
theorem FlagLine.stretch_settled (now : Nat) (f : FlagLine) (hn : (f.stretch now).holdEnd = none) :
    (f.stretch now).output = (f.stretch now).target := by
  rcases f.stretch_cases now with ⟨hc, h'⟩ | ⟨-, -, h'⟩
  · rw [h'] at hn ⊢
    rcases hc with ⟨x, hx, -⟩ | hc
    · rw [hx] at hn; cases hn
    · exact hc
  · rw [h']

/-- The width is kept by whatever leaves output and hold end alone. -/
theorem FlagLine.keepsWidth_of_same (now : Nat) (f g : FlagLine) (ho : g.output = f.output)
    (hh : g.holdEnd = f.holdEnd) : f.KeepsWidth now g :=
  ⟨fun _ h _ => ⟨ho, hh.trans h⟩, fun h => absurd ho h, fun _ => .inl hh⟩

/-- The stretcher keeps the width. -/
theorem FlagLine.keepsWidth_stretch (now : Nat) (f : FlagLine) : f.KeepsWidth now (f.stretch now) := by
  rcases f.stretch_cases now with ⟨-, h⟩ | ⟨hr, ho, h⟩ <;> rw [h]
  · exact f.keepsWidth_of_same now f rfl rfl
  · exact ⟨fun x hx hlt => absurd (hr x hx) (by omega), fun _ => rfl, fun e => absurd e.symm ho⟩

/-- Widths are kept through two changes at one instant, the second of which leaves the width setting as it is. -/
theorem FlagLine.KeepsWidth.trans {now : Nat} {f g h : FlagLine} (h1 : f.KeepsWidth now g) (h2 : g.KeepsWidth now h)
    (hw : h.width = g.width) : f.KeepsWidth now h := by
  have key : g.output ≠ f.output → h.output ≠ g.output → g.width = 0 := by
    intro a b
    by_contra hz
    have := h1.changed a
    rw [if_neg hz] at this
    exact b (h2.held _ this (by unfold micros Config.ticksPerMicro; omega)).1
  refine ⟨fun x hx hlt => ?_, fun hne => ?_, fun he => ?_⟩
  · obtain ⟨a, b⟩ := h1.held x hx hlt
    obtain ⟨c, d⟩ := h2.held x b hlt
    exact ⟨c.trans a, d⟩
  · by_cases hg : h.output = g.output
    · have hc := h1.changed (hg ▸ hne)
      by_cases hz : g.width = 0
      · rw [if_pos hz] at hc
        rw [hw, if_pos hz]
        rcases h2.unchanged hg with h' | h'
        · rw [h', hc]
        · exact h'
      · rw [if_neg hz] at hc
        rw [hw, if_neg hz]
        exact (h2.held _ hc (by unfold micros Config.ticksPerMicro; omega)).2
    · exact h2.changed hg
  · by_cases hg : g.output = f.output
    · rcases h2.unchanged (he.trans hg.symm) with h' | h'
      · rw [h']; exact h1.unchanged hg
      · exact .inr h'
    · have hh : h.output ≠ g.output := fun e => hg (e.symm.trans he)
      have := h2.changed hh
      rw [hw, if_pos (key hg hh)] at this
      exact .inr this

/-- The line takes a target: the width is kept and no setting changes. -/
theorem FlagLine.keepsWidth_take (now : Nat) (v : Bool) (f : FlagLine) :
    f.KeepsWidth now (f.take now v) ∧ (f.take now v).width = f.width := by
  have h1 : f.KeepsWidth now { f with target := v } := f.keepsWidth_of_same now _ rfl rfl
  have h2 := FlagLine.keepsWidth_stretch now { f with target := v }
  have hw := (FlagLine.stretch_frame now { f with target := v }).2.2.1
  exact ⟨h1.trans h2 hw, hw⟩

/-- The changes that wait are taken in turn with the width kept. -/
theorem FlagLine.keepsWidth_takeAll (now : Nat) (f : FlagLine) :
    f.KeepsWidth now (f.takeAll now) ∧ (f.takeAll now).width = f.width := by
  have key : ∀ (vs : List Bool) (g : FlagLine),
      g.KeepsWidth now (vs.foldl (fun x v => FlagLine.take now v x) g) ∧
        (vs.foldl (fun x v => FlagLine.take now v x) g).width = g.width := by
    intro vs
    induction vs with
    | nil => intro g; exact ⟨g.keepsWidth_of_same now g rfl rfl, rfl⟩
    | cons v vs ih =>
      intro g
      have h1 := g.keepsWidth_take now v
      have h2 := ih (g.take now v)
      exact ⟨h1.1.trans h2.1 h2.2, h2.2.trans h1.2⟩
  have h0 : f.KeepsWidth now { f with changes := [] } := f.keepsWidth_of_same now _ rfl rfl
  have := key f.changes { f with changes := [] }
  exact ⟨h0.trans this.1 this.2, this.2⟩

/-- A line changed by a request or by its own pulse end goes through the stretcher with its output and hold. -/
theorem State.keepsWidth_settleFlag (s : State) (f g : FlagLine) (ho : g.output = f.output)
    (hh : g.holdEnd = f.holdEnd) : f.KeepsWidth s.now (s.settleFlag g) := by
  have h1 : f.KeepsWidth s.now { g with changes := [] } := f.keepsWidth_of_same s.now _ ho hh
  have h2 := FlagLine.keepsWidth_take s.now (s.targetOf g) { g with changes := [] }
  exact h1.trans h2.1 h2.2

/-- An invert setting turns target and changes alone. -/
@[simp] theorem FlagLine.reinvert_frame (v : Bool) (f : FlagLine) :
    (f.reinvert v).source = f.source ∧ (f.reinvert v).width = f.width ∧ (f.reinvert v).hostLevel = f.hostLevel ∧
      (f.reinvert v).restLevel = f.restLevel ∧ (f.reinvert v).patternLevel = f.patternLevel ∧
      (f.reinvert v).pulseEnd = f.pulseEnd ∧ (f.reinvert v).output = f.output ∧
      (f.reinvert v).holdEnd = f.holdEnd := by simp [FlagLine.reinvert]

/-- The latest target of a line turns with its invert (R125, R131). -/
theorem FlagLine.reinvert_latest (v : Bool) (f : FlagLine) : (f.reinvert v).latest = (f.latest ^^ (f.invert ^^ v)) := by
  simp only [FlagLine.latest, FlagLine.reinvert, List.getLast?_map]
  cases f.changes.getLast? <;> rfl

/-- With no change waiting, taking them all leaves the output. -/
theorem FlagLine.takeAll_output_of_nil (now : Nat) (f : FlagLine) (h : f.changes = []) :
    (f.takeAll now).output = f.output := by simp [FlagLine.takeAll, h]

/-- SET FLAG on a named line keeps the hold that runs, and a change of output starts a hold: of the line's own W, or
where changes waited on a PATTERN line in IDLE, which are handled first, of the W before (R130, R131). -/
theorem State.setFlagLine_widths (s : State) (src : FlagSource) (invert : Bool) (w : Nat) (rest : Bool)
    (f : FlagLine) (g : FlagLine) (hg : g = s.setFlagLine src invert w rest f) :
    (∀ h, f.holdEnd = some h → s.now < h → g.output = f.output ∧ g.holdEnd = some h) ∧
      (g.output ≠ f.output → ∃ w', (w' = g.width ∨
          (f.changes ≠ [] ∧ f.source = .pattern ∧ s.seq.plan = .idle ∧ w' = f.width)) ∧
        g.holdEnd = if w' = 0 then none else some (s.now + micros w')) := by
  have plain : f.KeepsWidth s.now g → _ := fun k =>
    (⟨k.held, fun hne => ⟨g.width, .inl rfl, k.changed hne⟩⟩ : _ ∧ (g.output ≠ f.output → ∃ w', (w' = g.width ∨
      (f.changes ≠ [] ∧ f.source = .pattern ∧ s.seq.plan = .idle ∧ w' = f.width)) ∧
        g.holdEnd = if w' = 0 then none else some (s.now + micros w')))
  unfold State.setFlagLine at hg
  dsimp only at hg
  split at hg
  · next hs =>
    split at hg
    · next hp =>
      have h1 := f.keepsWidth_takeAll s.now
      have h2 : (f.takeAll s.now).KeepsWidth s.now g := by
        rw [hg]; exact s.keepsWidth_settleFlag (f.takeAll s.now) _ rfl rfl
      refine ⟨fun h hh hlt => ?_, fun hne => ?_⟩
      · obtain ⟨a, b⟩ := h1.1.held h hh hlt
        obtain ⟨c, d⟩ := h2.held h b hlt
        exact ⟨c.trans a, d⟩
      · by_cases ho : g.output = (f.takeAll s.now).output
        · have hx : (f.takeAll s.now).output ≠ f.output := ho ▸ hne
          have hc := h1.1.changed hx
          rw [h1.2] at hc
          refine ⟨f.width, .inr ⟨fun e => hx (f.takeAll_output_of_nil s.now e), hs.trans hp.1, hp.2, rfl⟩, ?_⟩
          by_cases hz : f.width = 0
          · rw [if_pos hz] at hc ⊢
            rcases h2.unchanged ho with h' | h'
            · rw [h', hc]
            · exact h'
          · rw [if_neg hz] at hc ⊢
            exact (h2.held _ hc (by unfold micros Config.ticksPerMicro; omega)).2
        · exact ⟨g.width, .inl rfl, h2.changed ho⟩
    · refine plain ?_
      rw [hg]
      refine FlagLine.KeepsWidth.trans (FlagLine.keepsWidth_of_same s.now f _ ?_ ?_)
        (FlagLine.keepsWidth_stretch s.now _) (FlagLine.stretch_frame s.now _).2.2.1 <;> simp
  · refine plain ?_
    rw [hg]
    exact s.keepsWidth_settleFlag f _ rfl rfl

/-- A hold end that has been reached keeps the width. -/
theorem FlagLine.keepsWidth_endHold (now : Nat) (f : FlagLine) : f.KeepsWidth now (f.endHold now) := by
  unfold FlagLine.endHold
  cases hh : f.holdEnd with
  | none => exact f.keepsWidth_of_same now f rfl rfl
  | some h =>
    by_cases hn : h ≤ now
    · simp only [hn, ite_true]
      have h1 : f.KeepsWidth now { f with holdEnd := none } :=
        ⟨fun x hx hlt => by rw [hh] at hx; cases hx; omega, fun e => absurd rfl e, fun _ => .inr rfl⟩
      exact h1.trans (FlagLine.keepsWidth_stretch now _) (FlagLine.stretch_frame now _).2.2.1
    · simp only [hn, ite_false]; exact f.keepsWidth_of_same now f rfl rfl

/-- A pulse end that has been reached keeps the width. -/
theorem State.keepsWidth_endPulse (s : State) (f : FlagLine) : f.KeepsWidth s.now (s.endPulse f) := by
  unfold State.endPulse
  cases f.pulseEnd with
  | none => exact f.keepsWidth_of_same s.now f rfl rfl
  | some e =>
    by_cases hn : e ≤ s.now
    · simp only [hn, ite_true]
      have h1 := f.keepsWidth_takeAll s.now
      have h2 := s.keepsWidth_settleFlag (f.takeAll s.now) { f.takeAll s.now with pulseEnd := none } rfl rfl
      exact h1.1.trans h2 (by
        unfold State.settleFlag FlagLine.take
        exact (FlagLine.stretch_frame s.now _).2.2.1)
    · simp only [hn, ite_false]; exact f.keepsWidth_of_same s.now f rfl rfl

/-- A line notes a change of target without its output or hold end. -/
theorem FlagLine.note_frame (v : Bool) (f : FlagLine) : f.note v = { f with changes := (f.note v).changes } := by
  unfold FlagLine.note; split <;> rfl

end Sys2Proof.Machine
end

