-- ==== Sys2Proof/Laws/Units.lean ====
section
/-! SUPPORT. What a compactor unit does: the edge it receives, a close that does not end the step, and the bits of a
FEED that close nothing. -/

namespace Sys2Proof.Machine

/-! ### Receipt of an edge -/

/-- The oldest edge of its line leaves the unit's inbox. -/
theorem Receives.takeEdge {s : State} {u : Fin 8} {b left : Bound} {e : ProbeEdge} (h : Receives s u b e left) :
    b.takeEdge e.line = some (e, left) := by
  obtain ⟨older, later, hb, hn, rfl⟩ := h.waits
  have hf : b.inbox.find? (fun x => decide (x.line = e.line)) = some e := by
    rw [hb, List.find?_append]
    have : older.find? (fun x => decide (x.line = e.line)) = none := by
      rw [List.find?_eq_none]; intro x hx; simpa using hn x hx
    simp [this]
  have he : b.inbox.erase e = older ++ later := by
    rw [hb, List.erase_append_right _ (fun hm => hn e hm rfl)]
    simp
  simp [Bound.takeEdge, hf, he]

/-- An EDGE_RECEIPT of an edge that the unit has yet to receive. -/
theorem execEdgeReceipt_of_receives {s : State} {u : Fin 8} {b left : Bound} {e : ProbeEdge}
    (h : Receives s u b e left) (t : Nat) :
    execEdgeReceipt t u e.line e.kind s = .next (((s.advance t).receive u e left).finish (s.advance t)) := by
  have hu : (s.advance t).units[u] = some b := h.unit
  simp only [execEdgeReceipt, hu, Option.bind_some, h.takeEdge, ite_true]

/-- The sample is the levels of the data lines in rising line order. -/
theorem sampleLevels_eq (level : Fin 16 → Bool) (p : ProbeInput) :
    sampleLevels level p = ((List.finRange 16).filter fun n => p.data.getLsbD n.val).map level := rfl

/-- A line-and-edge field names an edge when line and kind agree. -/
theorem lineMatches_iff (x : LineEdge) (e : ProbeEdge) :
    lineMatches x e = true ↔ x = { line := e.line, edge := e.kind } := by
  cases x; simp [lineMatches]

/-- An edge at an ARMED unit opens the window exactly when it is the start edge (R38). -/
theorem Bound.edgeEffect_of_armed (level : Fin 16 → Bool) (e : ProbeEdge) (b : Bound) (h : b.phase = .armed) :
    b.edgeEffect level e =
      if b.lane.start = .edge { line := e.line, edge := e.kind } then .opens else .nothing := by
  simp only [Bound.edgeEffect, h]
  cases b.lane.start with
  | immediate => simp
  | host => simp
  | edge x => simp [lineMatches_iff]

/-- An edge at an OPEN unit of a probe mode: the stop edge first, then a qualified clock edge (R39, R40). -/
theorem Bound.edgeEffect_of_open (level : Fin 16 → Bool) (e : ProbeEdge) (b : Bound) (p : ProbeInput)
    (h : b.phase = .opened) (hp : probeInput b.lane = some p) :
    b.edgeEffect level e =
      if b.lane.stop = .edge { line := e.line, edge := e.kind } then .closes
      else if p.clock = { line := e.line, edge := e.kind } ∧ ∀ q, p.qualifier = some q → level q.line = q.high then
        .samples
      else .nothing := by
  have hq : (lineMatches p.clock e && qualified level p) = true ↔
      (p.clock = { line := e.line, edge := e.kind } ∧ ∀ q, p.qualifier = some q → level q.line = q.high) := by
    rw [Bool.and_eq_true, lineMatches_iff, qualified]
    cases p.qualifier <;> simp
  simp only [Bound.edgeEffect, h, hp, hq]
  cases b.lane.stop with
  | count n => simp
  | host => simp
  | edge x => simp [lineMatches_iff]

/-! ### A close that does not end the step (spec/03 R47, spec/05 R87) -/

/-- The lane that names a unit is found at a position of the step copy. -/
theorem Sequencer.laneOf_eq_some {q : Sequencer} {r : StepRecord} {u : Fin 8} {i : Nat} (hr : q.stepCopy = some r)
    (h : q.laneOf u = some i) : ∃ l, r.lanes[i]? = some l ∧ l.unit = u := by
  simp only [Sequencer.laneOf, hr, Option.bind_some] at h
  have := List.findIdx?_eq_some_iff_getElem.mp h
  obtain ⟨hi, hp, -⟩ := this
  exact ⟨r.lanes[i], by simp [hi], by simpa using hp⟩

/-- While a lane has no close report the step does not end. -/
theorem Sequencer.allReported_of_missing {q : Sequencer} {r : StepRecord} {j : Fin 8} {l : Lane}
    (hr : q.stepCopy = some r) (hl : r.lanes[j.val]? = some l) (hj : q.reports[j] = none) :
    q.allReported = false := by
  simp only [Sequencer.allReported, hr]
  rw [List.all_eq_false]
  refine ⟨(l, j.val), ?_, ?_⟩
  · rw [List.mem_iff_getElem?]; exact ⟨j.val, by simp [hl]⟩
  · have : q.reports[j.val] = none := hj
    simp [Sequencer.reportAt, this]

/-- A close that leaves another lane of the step without a report. -/
theorem State.closeUnit_of_early {s : State} {u i : Fin 8} {b : Bound} {reason : CloseReason}
    (hu : s.units[u] = some b) (he : ClosesEarly s u i) :
    s.closeUnit reason u = { s with
      units := s.units.set u (some (b.close s.now reason))
      seq := { s.seq with reports := s.seq.reports.set i (some (b.report u s.now reason)) } } := by
  obtain ⟨r, l, j, hr, hl, hj, hn⟩ := he.other
  have hlane := he.lane
  have hall : ({ s.seq with reports := s.seq.reports.set i (some (b.report u s.now reason)) } : Sequencer).allReported
      = false := by
    refine Sequencer.allReported_of_missing (r := r) (j := j) hr hl ?_
    have : i.val ≠ j.val := fun e => hj (Fin.ext e.symm)
    have hn' : s.seq.reports[j.val] = none := hn
    simp [this, hn']
  have hu' : s.units[u.val] = some b := hu
  simp only [State.closeUnit, Fin.getElem_fin, hu', State.takeReport]
  rw [show (b.report u s.now reason).unit = u from rfl, hlane]
  simp only [i.isLt, dite_true]
  rw [hall]
  rfl

/-- What `closedEarly` says, of such a close. -/
theorem State.closeUnit_closedEarly {s : State} {u i : Fin 8} {b : Bound} {reason : CloseReason}
    (hu : s.units[u] = some b) (he : ClosesEarly s u i) : closedEarly u i reason b s (s.closeUnit reason u) := by
  rw [State.closeUnit_of_early hu he]
  refine ⟨?_, rfl⟩
  have hd : b.durationAt s.now = windowDuration s.now b := by
    unfold Bound.durationAt windowDuration
    cases b.openedAt <;> rfl
  simp [Bound.close, closedAs, hd]

/-! ### The bits of a FEED (spec/03 R56) -/

/-- A sample at a unit changes residue, counts and previous sample alone. -/
theorem Bound.takeSample_frame (b : Bound) (x : List Bool) :
    b.takeSample x = { b with
      residue := b.foldSample x, transitions := (b.takeSample x).transitions, previous := some x,
      samples := min Config.max32 (b.samples + 1) } := rfl

/-- One bit at a HOST lane's unit is the sample that `sampledBit` gives. -/
theorem Bound.takeSample_bit (b : Bound) (d : Bool) (hm : b.lane.mode = .host) :
    b.takeSample [d] = sampledBit b d := by
  unfold Bound.takeSample sampledBit
  congr 1
  · simp [Bound.foldSample, hm]
  · cases h : b.previous <;> simp [Bound.isTransition, h]

@[simp] theorem sampledBit_lane (b : Bound) (d : Bool) : (sampledBit b d).lane = b.lane := rfl

@[simp] theorem sampledBit_profile (b : Bound) (d : Bool) : (sampledBit b d).profile = b.profile := rfl

@[simp] theorem sampledBit_phase (b : Bound) (d : Bool) : (sampledBit b d).phase = b.phase := rfl

@[simp] theorem sampledBits_lane (bits : List Bool) (b : Bound) : (bits.foldl sampledBit b).lane = b.lane := by
  induction bits generalizing b with
  | nil => rfl
  | cons d ds ih => exact ih (sampledBit b d)

/-- The count brings no close while neither the stop count nor the sample limit is reached. -/
theorem Bound.countClose_of_not_reached (b : Bound) (h : ¬b.reached) : b.countClose = none := by
  unfold Bound.countClose
  rw [if_neg fun e => h (.inl e), if_neg fun e => h (.inr e)]

/-- The close that a count reached brings. -/
theorem Bound.countClose_of_reached (b : Bound) (h : b.reached) :
    b.countClose = some (if b.lane.stop = .count b.samples then .stop else .limit) := by
  unfold Bound.countClose
  split
  · rfl
  · rw [if_pos (h.resolve_left ‹_›)]

/-- Bits that reach no stop count and no sample limit are all folded and close nothing (spec/03 R56). -/
theorem Bound.feedBits_of_open (bits : List Bool) (b : Bound) (hm : b.lane.mode = .host)
    (h : ∀ m, 1 ≤ m → m ≤ bits.length → ¬((bits.take m).foldl sampledBit b).reached) :
    Bound.feedBits bits b = (bits.foldl sampledBit b, bits.length, none) := by
  induction bits generalizing b with
  | nil => rfl
  | cons d ds ih =>
    have h1 : ¬(sampledBit b d).reached := h 1 (Nat.le_refl 1) (by simp)
    have hd := ih (sampledBit b d) hm fun m hm1 hm2 => by
      simpa using h (m + 1) (by omega) (by simp; omega)
    simp [Bound.feedBits, Bound.takeSample_bit b d hm, Bound.countClose_of_not_reached _ h1, hd]

/-- Bits up to the first that reaches the stop count or the sample limit are folded, and close the window (spec/03
R56). -/
theorem Bound.feedBits_of_close (bits : List Bool) (b : Bound) (k : Nat) (hm : b.lane.mode = .host) (hk : 1 ≤ k)
    (hl : k ≤ bits.length) (hr : ((bits.take k).foldl sampledBit b).reached)
    (h : ∀ m, 1 ≤ m → m < k → ¬((bits.take m).foldl sampledBit b).reached) :
    Bound.feedBits bits b = ((bits.take k).foldl sampledBit b, k, ((bits.take k).foldl sampledBit b).countClose) := by
  induction bits generalizing b k with
  | nil => simp at hl; omega
  | cons d ds ih =>
    obtain rfl | hk2 : k = 1 ∨ 2 ≤ k := by omega
    · have hr' : (sampledBit b d).reached := by simpa using hr
      simp [Bound.feedBits, Bound.takeSample_bit b d hm, Bound.countClose_of_reached _ hr']
    · have h1 : ¬(sampledBit b d).reached := h 1 (Nat.le_refl 1) (by omega)
      obtain ⟨j, rfl⟩ : ∃ j, k = j + 1 := ⟨k - 1, by omega⟩
      have hd := ih (sampledBit b d) j hm (by omega) (by simpa using hl) (by simpa using hr)
        fun m hm1 hm2 => by simpa using h (m + 1) (by omega) (by omega)
      simp [Bound.feedBits, Bound.takeSample_bit b d hm, Bound.countClose_of_not_reached _ h1, hd]

/-- The order of the bits of a FEED is that of `bitsOf` (spec/01 R9). -/
theorem feedOrder_eq (p : Profile) (bytes : List Byte) : feedOrder p bytes = bitsOf p.byteOrder bytes := by
  unfold feedOrder bitsOf byteBits
  cases p.byteOrder <;> rfl

/-- The residue after the bits of bytes is the fold of the bytes (spec/01 R9). -/
theorem sampledBits_residue (bytes : List Byte) (b : Bound) :
    ((bitsOf b.profile.byteOrder bytes).foldl sampledBit b).residue = foldBytes b.profile b.residue bytes := by
  have fold : ∀ (bits : List Bool) (b : Bound),
      (bits.foldl sampledBit b).residue = bits.foldl (serialFold b.profile) b.residue := by
    intro bits
    induction bits with
    | nil => exact fun _ => rfl
    | cons d ds ih => exact fun b => ih (sampledBit b d)
  rw [fold, ← feedOrder_eq, feedOrder, List.foldl_flatMap]
  rfl

/-- What a FEED that closes its window folds, and the close it brings (spec/03 R56, R57). -/
theorem Bound.feedBits_of_closes {b c : Bound} {bits : List Bool} {final : Bool} {k : Nat} {reason : CloseReason}
    (hm : b.lane.mode = .host) (h : FeedCloses b bits final k c reason) :
    ∃ o, Bound.feedBits bits b = (c, k, o) ∧
      (if final then some (o.getD .stop) else o) = some reason := by
  obtain ⟨h1, rfl, h2, h3⟩ := h
  rcases h3 with ⟨h3, h4, rfl⟩ | ⟨rfl, h4, rfl, rfl⟩
  · refine ⟨_, Bound.feedBits_of_close bits b k hm h3 h1 h4 h2, ?_⟩
    rw [Bound.countClose_of_reached _ h4]
    simp
  · refine ⟨none, ?_, rfl⟩
    rw [List.take_length]
    apply Bound.feedBits_of_open bits b hm
    intro m h5 h6 h7
    by_cases h8 : m = bits.length
    · subst h8; exact h4 ⟨h5, h7⟩
    · exact h2 m h5 (by omega) h7

end Sys2Proof.Machine
end

