-- ==== Sys2Proof/Laws/Closes.lean ====
section
/-! SUPPORT. The closes of units that end a step: several closes one after another are the closes of all, and with the
last of them the step ends (spec/03 R47, spec/05 R87). -/

namespace Sys2Proof.Machine

/-- `why` without unit `u`. -/
def without (u : Fin 8) (why : Fin 8 → Option CloseReason) (v : Fin 8) : Option CloseReason :=
  if v = u then none else why v

/-- The unit's own part of a close, as the statements say it (R47). -/
theorem Bound.close_eq (now : Nat) (reason : CloseReason) (b : Bound) : b.close now reason = closedAs now reason b := by
  unfold Bound.close closedAs Bound.durationAt windowDuration
  cases b.openedAt <;> rfl

/-- The close report, as the statements say it (R47). -/
theorem Bound.report_eq (u : Fin 8) (now : Nat) (reason : CloseReason) (b : Bound) :
    b.report u now reason = reportOf now u reason b := by
  unfold Bound.report reportOf Bound.durationAt windowDuration
  cases b.openedAt <;> rfl

/-- A unit after closes. -/
theorem State.withClosed_unit (s : State) (why : Fin 8 → Option CloseReason) (v : Fin 8) :
    (s.withClosed why).units[v] = (s.units[v]).map fun b =>
      match why v with
      | none => b
      | some reason => closedAs s.now reason b := by
  simp only [State.withClosed, Fin.getElem_fin, Vector.getElem_ofFn] <;> rfl

/-- The report at the position of a lane after closes. -/
theorem State.withClosed_report (s : State) (why : Fin 8 → Option CloseReason) (i : Fin 8) :
    (s.withClosed why).seq.reports[i] =
      match s.seq.stepCopy.bind fun r => r.lanes[i.val]? with
      | none => s.seq.reports[i]
      | some l =>
        match why l.unit, s.units[l.unit] with
        | some reason, some b => some (reportOf s.now l.unit reason b)
        | _, _ => s.seq.reports[i] := by
  simp only [State.withClosed, Fin.getElem_fin, Vector.getElem_ofFn] <;> rfl

/-- The report at a lane of the step copy after closes. -/
theorem State.withClosed_report_of_lane {s : State} {r : StepRecord} {l : Lane} {i : Fin 8}
    (hr : s.seq.stepCopy = some r) (hl : r.lanes[i.val]? = some l) (why : Fin 8 → Option CloseReason) :
    (s.withClosed why).seq.reports[i] =
      match why l.unit, s.units[l.unit] with
      | some reason, some b => some (reportOf s.now l.unit reason b)
      | _, _ => s.seq.reports[i] := by
  rw [State.withClosed_report]
  simp only [hr, Option.bind_some, hl]

/-- Closes reach units and reports alone. -/
theorem State.withClosed_eq {s x : State} {why : Fin 8 → Option CloseReason} {us : Vector (Option Bound) 8}
    {rs : Vector (Option CloseReport) 8} (hx : x = { s with units := us, seq := { s.seq with reports := rs } })
    (hu : ∀ v : Fin 8, us[v] = (s.withClosed why).units[v])
    (hr : ∀ i : Fin 8, rs[i] = (s.withClosed why).seq.reports[i]) : x = s.withClosed why := by
  have e1 : us = (s.withClosed why).units := by
    ext v hv : 1
    exact hu ⟨v, hv⟩
  have e2 : rs = (s.withClosed why).seq.reports := by
    ext i hi : 1
    exact hr ⟨i, hi⟩
  rw [hx, e1, e2]
  rfl

/-- Closes of one unit and then of the others are the closes of all. -/
theorem State.withClosed_split (s : State) (why : Fin 8 → Option CloseReason) (u : Fin 8) (reason : CloseReason)
    (h : why u = some reason) :
    (s.withClosed (onlyUnit u reason)).withClosed (without u why) = s.withClosed why := by
  refine State.withClosed_eq (us := ((s.withClosed (onlyUnit u reason)).withClosed (without u why)).units)
    (rs := ((s.withClosed (onlyUnit u reason)).withClosed (without u why)).seq.reports) rfl (fun v => ?_) fun i => ?_
  · rw [State.withClosed_unit, State.withClosed_unit, State.withClosed_unit]
    by_cases hv : v = u
    · subst hv; cases s.units[v] <;> simp [onlyUnit, without, h]
    · simp only [onlyUnit, without, hv, if_false]
      cases s.units[v] <;> rfl
  · rw [State.withClosed_report, State.withClosed_report, State.withClosed_report]
    show (match s.seq.stepCopy.bind fun r => r.lanes[i.val]? with | none => _ | some l => _) = _
    cases (s.seq.stepCopy.bind fun r => r.lanes[i.val]?) with
    | none => rfl
    | some l =>
      simp only [State.withClosed_unit]
      by_cases hv : l.unit = u
      · subst hv
        cases s.units[l.unit] <;> simp [onlyUnit, without, h]
      · simp only [onlyUnit, without, hv, if_false]
        cases s.units[l.unit] <;> cases why l.unit <;> rfl

/-- A close of the unit of a lane: the unit and its report, and with no lane left without a report the step end. -/
theorem State.closeUnit_of_lane {s : State} {u : Fin 8} {b : Bound} {r : StepRecord} {l : Lane} (reason : CloseReason)
    (hu : s.units[u] = some b) (hr : s.seq.stepCopy = some r) (few : r.lanes.length ≤ 8)
    (distinct : (r.lanes.map (·.unit)).Nodup) (hl : l ∈ r.lanes) (hlu : l.unit = u) :
    s.closeUnit reason u =
      if (s.withClosed (onlyUnit u reason)).seq.allReported then (s.withClosed (onlyUnit u reason)).endStep
      else s.withClosed (onlyUnit u reason) := by
  obtain ⟨i, hi⟩ : ∃ i, s.seq.laneOf u = some i := by
    cases h : s.seq.laneOf u with
    | some i => exact ⟨i, rfl⟩
    | none =>
      simp only [Sequencer.laneOf, hr, Option.bind_some, List.findIdx?_eq_none_iff] at h
      simpa [hlu] using h l hl
  obtain ⟨m, hm, hmu⟩ := Sequencer.laneOf_eq_some hr hi
  have hi8 : i < 8 := by
    have := (List.getElem?_eq_some_iff.mp hm).1
    omega
  have hx : ({ s with
      units := s.units.set u (some (b.close s.now reason))
      seq := { s.seq with reports := s.seq.reports.set i (some (b.report u s.now reason)) } } : State) =
        s.withClosed (onlyUnit u reason) := by
    refine State.withClosed_eq rfl (fun v => ?_) fun j => ?_
    · rw [State.withClosed_unit]
      by_cases hv : v = u
      · subst hv
        rw [hu]
        simp [onlyUnit, Bound.close_eq]
      · have : u.val ≠ v.val := fun e => hv (Fin.ext e.symm)
        simp only [Fin.getElem_fin, onlyUnit, hv, if_false]
        rw [Vector.getElem_set_ne _ _ this]
        cases s.units[v.val] <;> rfl
    · by_cases hj : i = j.val
      · subst hj hmu
        rw [State.withClosed_report_of_lane hr hm, hu]
        simp [onlyUnit, Bound.report_eq]
      · rw [State.withClosed_report]
        simp only [hr, Option.bind_some, Fin.getElem_fin]
        rw [Vector.getElem_set_ne _ _ hj]
        cases hlj : r.lanes[j.val]? with
        | none => rfl
        | some k =>
          have hk : k.unit ≠ u := by
            intro e
            obtain ⟨h1, e1⟩ := List.getElem?_eq_some_iff.mp hm
            obtain ⟨h2, e2⟩ := List.getElem?_eq_some_iff.mp hlj
            have := (List.nodup_iff_injective_get.mp distinct) (a₁ := ⟨i, by simpa using h1⟩)
              (a₂ := ⟨j.val, by simpa using h2⟩) (by simp [e1, e2, hmu, e])
            exact hj (congrArg Fin.val this)
          simp [onlyUnit, hk]
  have hu' : s.units[u.val] = some b := hu
  rw [← hx]
  simp only [State.closeUnit, Fin.getElem_fin, hu', State.takeReport]
  rw [show (b.report u s.now reason).unit = u from rfl, hi]
  simp only [hi8, dite_true]

/-- No lane is left without a report exactly when each position of the step copy has one. -/
theorem Sequencer.allReported_iff {q : Sequencer} {r : StepRecord} (hr : q.stepCopy = some r)
    (few : r.lanes.length ≤ 8) :
    q.allReported = true ↔ ∀ (j : Fin 8) (l : Lane), r.lanes[j.val]? = some l → q.reports[j] ≠ none := by
  simp only [Sequencer.allReported, hr, List.all_eq_true]
  constructor
  · intro h j l hl
    have := h (l, j.val) (List.mem_iff_getElem?.mpr ⟨j.val, by simp [hl]⟩)
    intro hn
    have hn' : q.reports[j.val] = none := hn
    simp [Sequencer.reportAt, hn'] at this
  · rintro h ⟨l, j⟩ hx
    obtain ⟨k, hk⟩ := List.mem_iff_getElem?.mp hx
    simp only [List.getElem?_zipIdx, Nat.zero_add, Option.map_eq_some_iff, Prod.mk.injEq] at hk
    obtain ⟨l', hl, rfl, rfl⟩ := hk
    have hlt := (List.getElem?_eq_some_iff.mp hl).1
    have := h ⟨k, by omega⟩ l' hl
    simp only [Sequencer.reportAt, show k < 8 by omega, dite_true]
    exact Option.isSome_iff_ne_none.mpr this

/-- Closes that leave no lane without a report end the step, whatever their order (spec/05 R87). -/
theorem State.closeAll_of_last {s : State} {r : StepRecord} {why : Fin 8 → Option CloseReason} (reason : CloseReason)
    (us : List (Fin 8)) (hnd : us.Nodup) (hwhy : ∀ u, why u = if u ∈ us then some reason else none)
    (hb : ∀ u ∈ us, s.units[u] ≠ none) (h : ClosesLast s r why) :
    us.foldl (fun x u => x.closeUnit reason u) s = (s.withClosed why).endStep := by
  induction us generalizing s why with
  | nil =>
    obtain ⟨u, hu⟩ := h.closes
    exact absurd (by simp [hwhy u]) hu
  | cons u us ih =>
    obtain ⟨b, hub⟩ := Option.ne_none_iff_exists'.mp (hb u (List.mem_cons_self ..))
    have hwu : why u = some reason := by rw [hwhy u, if_pos (List.mem_cons_self ..)]
    obtain ⟨l, hl, hlu⟩ := h.named u (by simp [hwu])
    have hc := State.closeUnit_of_lane reason hub h.copy h.few h.distinct hl hlu
    simp only [List.nodup_cons] at hnd
    have hcopy : (s.withClosed (onlyUnit u reason)).seq.stepCopy = some r := h.copy
    have hrep : ∀ (j : Fin 8) (l : Lane), r.lanes[j.val]? = some l →
        ((s.withClosed (onlyUnit u reason)).seq.reports[j] = none ↔ without u why l.unit ≠ none) := by
      intro j l hj
      rw [State.withClosed_report_of_lane h.copy hj]
      by_cases hv : l.unit = u
      · subst hv
        rw [hub]; simp [onlyUnit, without]
      · have := h.missing j l hj
        simpa [onlyUnit, without, hv] using this
    have hwhy' : ∀ v, without u why v = if v ∈ us then some reason else none := by
      intro v
      by_cases hv : v = u
      · subst hv; simp [without, hnd.1]
      · simp [without, hv, hwhy v]
    rw [List.foldl_cons, hc]
    cases us with
    | nil =>
      have hall : (s.withClosed (onlyUnit u reason)).seq.allReported = true := by
        rw [Sequencer.allReported_iff hcopy h.few]
        intro j l hj hn
        exact (hrep j l hj).mp hn (by simp [hwhy'])
      have hww : why = onlyUnit u reason := by
        funext v
        simp [hwhy v, onlyUnit]
      rw [hall, hww]; rfl
    | cons v vs =>
      have hv : without u why v = some reason := by rw [hwhy' v, if_pos (List.mem_cons_self ..)]
      have hvu : v ≠ u := fun e => hnd.1 (e ▸ List.mem_cons_self ..)
      obtain ⟨lv, hlv, hlvu⟩ := h.named v (by simp [hwhy v])
      have hall : (s.withClosed (onlyUnit u reason)).seq.allReported = false := by
        obtain ⟨j, hj⟩ := List.mem_iff_getElem?.mp hlv
        have hj8 : j < 8 := by
          have := (List.getElem?_eq_some_iff.mp hj).1
          have := h.few
          omega
        refine Sequencer.allReported_of_missing (j := ⟨j, hj8⟩) hcopy hj ?_
        exact (hrep ⟨j, hj8⟩ lv hj).mpr (by rw [hlvu, hv]; simp)
      rw [hall]
      rw [if_neg (by simp), ih hnd.2 hwhy' ?_ ⟨hcopy, h.few, h.distinct, hrep, ?_, v, by simp [hv]⟩,
        State.withClosed_split s why u reason hwu]
      · intro w hw
        rw [State.withClosed_unit]
        have := hb w (List.mem_cons_of_mem _ hw)
        simpa using this
      · intro w hw
        refine h.named w fun e => hw ?_
        simp [without, e]

/-- The close of the last unit ends the step (spec/05 R87). -/
theorem State.closeUnit_of_last {s : State} {u : Fin 8} {b : Bound} {r : StepRecord} {reason : CloseReason}
    (hu : s.units[u] = some b) (h : ClosesLast s r (onlyUnit u reason)) :
    s.closeUnit reason u = (s.withClosed (onlyUnit u reason)).endStep := by
  have := State.closeAll_of_last reason [u] (List.nodup_singleton u) (why := onlyUnit u reason)
    (fun v => by simp [onlyUnit]) (by simpa using (show s.units[u] ≠ none by rw [hu]; simp)) h
  simpa using this

end Sys2Proof.Machine
end

