-- ==== Sys2Proof/Laws/Queues.lean ====
section
/-! SUPPORT. What the bounded queues do: the reply cache, the Result Queue with its posts, and the choice of a step
boundary, each said once. -/

namespace Sys2Proof.Machine

/-! ### The reply cache (spec/09 R159) -/

/-- A write into the cache keeps at most eight entries with distinct tags. -/
theorem writeCache_sound (tag : Byte) (f : OutFrame) (c : List CacheEntry) (hl : c.length ≤ Config.cacheCapacity)
    (hn : (c.map (·.tag)).Nodup) :
    (writeCache tag f c).length ≤ Config.cacheCapacity ∧ ((writeCache tag f c).map (·.tag)).Nodup := by
  have hr : (c.filter fun e => decide (e.tag ≠ tag)).length ≤ Config.cacheCapacity :=
    (List.length_filter_le _ _).trans hl
  have hd : ((c.filter fun e => decide (e.tag ≠ tag)).map (·.tag)).Nodup := hn.sublist
    (List.Sublist.map CacheEntry.tag List.filter_sublist)
  have ht : tag ∉ (c.filter fun e => decide (e.tag ≠ tag)).map (·.tag) := by simp
  have key : ∀ k : List CacheEntry, k.Sublist (c.filter fun e => decide (e.tag ≠ tag)) →
      ((k ++ [({ tag := tag, frame := f } : CacheEntry)]).map (·.tag)).Nodup := by
    intro k hk
    rw [List.map_append, List.nodup_append]
    refine ⟨hd.sublist (hk.map _), by simp, fun x hx y hy => ?_⟩
    simp only [List.map_cons, List.map_nil, List.mem_singleton] at hy
    subst hy
    rintro rfl
    exact ht ((hk.map _).subset hx)
  unfold writeCache
  dsimp only
  split
  · refine ⟨?_, key _ (List.Sublist.refl _)⟩
    simp only [List.length_append, List.length_singleton]; omega
  · refine ⟨?_, key _ (List.drop_sublist _ _)⟩
    simp only [List.length_append, List.length_singleton, List.length_drop, Config.cacheCapacity] at *
    omega

/-- The newest entry of the cache is the one written. -/
theorem writeCache_getLast (tag : Byte) (f : OutFrame) (c : List CacheEntry) :
    (writeCache tag f c).getLast? = some { tag := tag, frame := f } := by simp [writeCache]

/-! ### The Result Queue (spec/06 R108, R113, R121) -/

/-- Removal of the oldest records keeps the queue's law. -/
theorem ResultQueue.remove_sound (q : ResultQueue) (n : Nat) (h : q.sound) : (q.remove n).sound := by
  obtain ⟨h1, h2⟩ := h
  refine ⟨by simp only [ResultQueue.remove, List.length_drop]; omega, fun i hi => ?_⟩
  simp only [ResultQueue.remove, List.length_drop, List.getElem_drop] at hi ⊢
  rw [h2 (n + i) (by omega)]
  congr 2
  omega

/-- A post that has room, of records numbered from N on, keeps the queue's law. -/
theorem ResultQueue.append_sound (q : ResultQueue) (rs : List ResultRecord) (h : q.sound)
    (hr : q.hasRoom rs.length = true)
    (hn : ∀ k, ∀ hk : k < rs.length, (rs[k]).sequence = q.next + BitVec.ofNat 16 k) : (q.append rs).sound := by
  obtain ⟨h1, h2⟩ := h
  have hr' : rs.length ≤ 64 - q.records.length := of_decide_eq_true hr
  simp only [Config.queueCapacity] at h1
  refine ⟨by simp only [ResultQueue.append, List.length_append, Config.queueCapacity]; omega, fun i hi => ?_⟩
  simp only [ResultQueue.append, List.length_append] at hi ⊢
  have key : ∀ (x : BitVec 16) (a b c : Nat), a + b = c → x - BitVec.ofNat 16 a = x + BitVec.ofNat 16 b - BitVec.ofNat 16 c := by
    intro x a b c h
    subst h
    rw [BitVec.ofNat_add]
    bv_omega
  by_cases hlt : i < q.records.length
  · rw [List.getElem_append_left hlt, h2 i hlt]
    exact key _ _ _ _ (by omega)
  · rw [List.getElem_append_right (by omega), hn _ (by omega)]
    have e : rs.length = (i - q.records.length) + (q.records.length + rs.length - i) := by omega
    conv => rhs; rw [show BitVec.ofNat 16 rs.length =
      BitVec.ofNat 16 (i - q.records.length) + BitVec.ofNat 16 (q.records.length + rs.length - i) by
        rw [← BitVec.ofNat_add, ← e]]
    bv_omega

/-- With every lane reported, each lane of the step copy is judged, in lane order. -/
theorem Sequencer.judged_eq (q : Sequencer) (r : StepRecord) (hr : q.stepCopy = some r) (h8 : r.lanes.length ≤ 8)
    (hall : ∀ j : Fin 8, j.val < r.lanes.length → q.reports[j] ≠ none) :
    q.judged.length = r.lanes.length ∧
      ∀ (k : Nat) (l : Lane) (j : Fin 8) (c : CloseReport), j.val = k → r.lanes[k]? = some l →
        q.reports[j] = some c → q.judged[k]? = some (l, k + 1, c) := by
  have key : ∀ (ls : List Lane) (n : Nat), n + ls.length ≤ 8 →
      (∀ j : Fin 8, n ≤ j.val → j.val < n + ls.length → q.reports[j] ≠ none) →
      let z := (ls.zipIdx n).filterMap fun x => (q.reportAt x.2).map fun c => (x.1, x.2 + 1, c)
      z.length = ls.length ∧
        ∀ (k : Nat) (l : Lane) (j : Fin 8) (c : CloseReport), j.val = n + k → ls[k]? = some l →
          q.reports[j] = some c → z[k]? = some (l, n + k + 1, c) := by
    intro ls
    induction ls with
    | nil => intro n _ _; exact ⟨rfl, by simp⟩
    | cons x ls ih =>
      intro n hn hj
      simp only [List.length_cons] at hn hj
      obtain ⟨i1, i2⟩ := ih (n + 1) (by omega) (fun j h1 h2 => hj j (by omega) (by omega))
      obtain ⟨c0, hc0⟩ := Option.ne_none_iff_exists'.mp (hj ⟨n, by omega⟩ (by simp) (by simp))
      have hrep : q.reportAt n = some c0 := by
        simp only [Sequencer.reportAt, show n < 8 by omega, dite_true]; exact hc0
      simp only [List.zipIdx_cons, List.filterMap_cons, hrep, Option.map_some]
      refine ⟨by simp only [List.length_cons, i1], fun k l j c hk hl hc => ?_⟩
      cases k with
      | zero =>
        simp only [List.getElem?_cons_zero, Option.some.injEq] at hl
        have : c = c0 := by
          have hjn : j = ⟨n, by omega⟩ := Fin.ext (by simpa using hk)
          rw [hjn, hc0] at hc
          exact (Option.some.inj hc).symm
        subst hl this
        simp
      | succ k =>
        simp only [List.getElem?_cons_succ] at hl ⊢
        rw [i2 k l j c (by omega) hl hc]
        congr 3
        omega
  have := key r.lanes 0 (by omega) (fun j _ h => hall j (by omega))
  simp only [Sequencer.judged, hr]
  refine ⟨this.1, fun k l j c hk hl hc => ?_⟩
  have := this.2 k l j c (by omega) hl hc
  simpa using this

/-- An attempt makes one record for each judged lane. -/
theorem Sequencer.recordsOf_length (q : Sequencer) (v : Verdict) (n : BitVec 16) :
    (q.recordsOf v n).length = q.judged.length := by simp [Sequencer.recordsOf]

/-- The records of an attempt are numbered one after another. -/
theorem Sequencer.recordsOf_sequence (q : Sequencer) (v : Verdict) (n : BitVec 16) (k : Nat)
    (hk : k < (q.recordsOf v n).length) : ((q.recordsOf v n)[k]).sequence = n + BitVec.ofNat 16 k := by
  simp [Sequencer.recordsOf, Sequencer.record]

/-! ### Posting and the step boundary (spec/05 R90 to R97) -/

/-- The sequencer posts the attempt's records and comes to the boundary, or holds them. -/
theorem State.askToPost_cases (v : Verdict) (s : State) :
    (s.queue.hasRoom (s.seq.recordsOf v s.queue.next).length = true ∧
      s.askToPost v =
        ({ s.postRecords (s.seq.recordsOf v s.queue.next) with
          seq := { s.seq with heldVerdict := none } } : State).boundary v) ∨
    (s.queue.hasRoom (s.seq.recordsOf v s.queue.next).length = false ∧
      s.askToPost v = { s with seq := { s.seq with plan := .held, heldVerdict := some v } }) := by
  cases h : s.queue.hasRoom (s.seq.recordsOf v s.queue.next).length with
  | true => left; simp [State.askToPost, h]
  | false => right; simp [State.askToPost, h]

/-- A boundary's choice ends the run, pauses, or starts a step. -/
theorem State.carryOut_cases (c : Choice) (s : State) :
    (∃ kind, c = .runEnd kind ∧ s.carryOut c = s.endRun kind) ∨
    (∃ n a i, c = .start n a i ∧ s.seq.pausePending = true ∧
      s.carryOut c = { s with seq := { s.seq with
        step := n, attempt := a, iteration := i, plan := .paused, pausePending := false } }) ∨
    (∃ n a i, c = .start n a i ∧ s.seq.pausePending = false ∧
      s.carryOut c = ({ s with seq := { s.seq with step := n, attempt := a, iteration := i } } : State).startStep) := by
  cases c with
  | runEnd kind => exact .inl ⟨kind, rfl, rfl⟩
  | start n a i =>
    cases h : s.seq.pausePending with
    | true => exact .inr (.inl ⟨n, a, i, rfl, rfl, by simp [State.carryOut, h]⟩)
    | false => exact .inr (.inr ⟨n, a, i, rfl, rfl, by simp [State.carryOut, h]⟩)

/-- A step that a boundary chooses is defined: the current one for a retry, one of the range otherwise. -/
theorem State.boundaryChoice_defined (v : Verdict) (s : State) (hs : s.steps[s.seq.step] ≠ none) (n : Fin 96)
    (a i : Nat) (h : s.boundaryChoice v = .start n a i) : s.steps[n] ≠ none := by
  have hf : ∀ (first last : Nat) (m : Fin 96), s.firstDefined first last = some m → s.steps[m] ≠ none := by
    intro first last m hm
    have := List.find?_some hm
    simp only [Bool.and_eq_true] at this
    exact Option.isSome_iff_ne_none.mp this.2
  have ha : s.advanceChoice = .start n a i → s.steps[n] ≠ none := by
    unfold State.advanceChoice State.nextDefined
    intro h
    split at h
    · rename_i m hm
      cases h; exact hf _ _ _ hm
    · split at h
      · split at h
        · rename_i m hm
          cases h; exact hf _ _ _ hm
        · cases h
      · cases h
  unfold State.boundaryChoice at h
  split at h
  · split at h
    · exact ha h
    · cases h
    · split at h
      · cases h; exact hs
      · split at h
        · exact ha h
        · cases h
  · exact ha h

end Sys2Proof.Machine
end

