-- ==== Sys2Proof/Tests/Slice0.lean ====
section
/-! SUPPORT. The builder's own tests: ill-formed terms that WellFormed refuses, the spec's worked examples one step at
a time, and for each statement with hypotheses a state that meets them. Expected values come from spec/; a comment
names the place. -/

namespace Sys2Proof.Machine.Tests

set_option Elab.async false

/-! ### Small states -/

/-- The part with its START notice sent and nothing waiting. -/
def quiet : State := { State.reset with tx := Transmitter.afterReset }

/-- A request frame with tag 7. -/
def req (kind : Byte) (payload : List Byte) : Frame := { tag := 7, kind := kind, ctrl := 0, payload := payload }

/-- `s` with one request that waits to be taken. -/
def ask (kind : Byte) (payload : List Byte) (s : State) : State :=
  { s with interp := { s.interp with requests := [req kind payload] } }

/-- The payload of the frame in flight after a command. -/
def sent (r : Result) : Option (List Byte) :=
  match r with
  | .next s => s.tx.inFlight.map (·.frame.payload)
  | .fault _ => none
  | .refused _ => none

/-- A question about the state after a command. -/
def after {α : Type} (r : Result) (q : State → α) : Option α :=
  match r with
  | .next s => some (q s)
  | .fault _ => none
  | .refused _ => none

/-- The width 4 profile of spec/01 1.8 with polynomial 0x3. -/
def tiny (d : Direction) (o : ByteOrder) : Profile :=
  { width := 4, poly := 3, seed := 0, finalMask := 0, direction := d, byteOrder := o }

/-- The input of the lane of spec/03 3.10.1: data PL1, clock PL0 RISING, qualifier PL2 HIGH. -/
def input : ProbeInput := { data := 2, clock := { line := 0, edge := .rising }, qualifier := some { line := 2, high := true } }

/-- The lane of spec/03 3.10.1: SERIAL, start EDGE on PL0 RISING, stop COUNT 5. -/
def lane : Lane :=
  { unit := 0, profile := 2, mode := .serial input, start := .edge { line := 0, edge := .rising }, stop := .count 5,
    sampleLimit := none, expectedResidue := none, expectedCount := none }

/-- A HOST lane on CU1 with fixed profile 14, start IMMEDIATE, stop HOST. -/
def hostLane : Lane :=
  { unit := 1, profile := 14, mode := .host, start := .immediate, stop := .host, sampleLimit := none,
    expectedResidue := none, expectedCount := none }

/-- A step of the given lanes. -/
def stepOf (ls : List Lane) : StepRecord :=
  { number := 10, label := 1000, timeLimit := 20, settle := some 500,
    pattern := some #v[.high, .low, .keep, .keep], onFail := .retry 2 .halt, lanes := ls }

/-- A bound copy of a lane in a phase, with nothing sampled. -/
def bound (ph : Phase) (l : Lane) (p : Profile) : Bound :=
  { phase := ph, lane := l, profile := p, residue := p.seed, samples := 0, transitions := 0, previous := none,
    openedAt := if ph = .armed then none else some 0, reason := none, duration := 0, inbox := [] }

/-- A plan in state `p` at step 10 with the given lanes, with slot 2 holding the width 4 profile. -/
def planned (p : PlanState) (ls : List Lane) : State :=
  { quiet with
    profiles := quiet.profiles.set 2 (some (tiny .left .msbFirst))
    steps := quiet.steps.set 10 (some (stepOf ls))
    seq := { quiet.seq with plan := p, runFirst := 10, runLast := 20, loopCount := 1, step := 10,
                            stepCopy := if p = .idle ∨ p = .paused then none else some (stepOf ls),
                            runClockFrom := if p = .idle then none else some 0 } }

/-- `s` with a unit bound. -/
def withUnit (u : Fin 8) (b : Bound) (s : State) : State := { s with units := s.units.set u (some b) }

/-- Both lanes of a CAPTURING step: CU0 as `b`, CU1 a HOST lane in phase `ph`. -/
def pair (b : Bound) (ph : Phase) : State :=
  withUnit 0 b (withUnit 1 (bound ph hostLane fixed14) (planned .capturing [b.lane, hostLane]))

/-- A close report of CU0. -/
def report : CloseReport := { unit := 0, reason := .stop, residue := 0xF, samples := 5, transitions := 3, duration := 60 }

/-- A result record that bears a sequence number. -/
def rec (n : BitVec 16) : ResultRecord :=
  { sequence := n, step := 3, label := 0, attempt := 0, iteration := 0, lanePosition := 1, unit := 0, profile := 14,
    reason := .stop, laneVerdict := .pass, stepVerdict := .pass, residueCheck := .met, countCheck := .notApplied,
    residue := 0x29B1, samples := 72, transitions := 30, stepStart := 0, duration := 9 }

/-- A queue of `k` records whose next sequence is `n`. -/
def queueOf (n : BitVec 16) (k : Nat) : ResultQueue :=
  { records := (List.range k).map fun i => rec (n - BitVec.ofNat 16 (k - i)), next := n }

/-- A request that waits alone before a state that has room for its reply is taken (spec/09 R156, R158). -/
theorem takes_ask (s : State) (kind : Byte) (payload : List Byte) (h1 : (ask kind payload s).mayTake = true) :
    Takes (ask kind payload s) (req kind payload) [] :=
  ⟨rfl, h1, fun h => by simp [req, Frame.retry, bitOf] at h⟩

/-! ### Ill-formed terms that WellFormed refuses -/

theorem test_wf_low_stop_bit : (Instr.lowStopBit 5 6).wellFormed = false ∧ (Instr.lowStopBit 6 6).wellFormed = true := by
  decide

theorem test_wf_profile_width : Profile.wellFormed { tiny .left .msbFirst with width := 3 } = false ∧
    Profile.wellFormed { tiny .left .msbFirst with width := 33 } = false ∧
    Profile.wellFormed (tiny .left .msbFirst) = true := by decide

theorem test_wf_profile_poly : Profile.wellFormed { tiny .left .msbFirst with poly := 0x13 } = false ∧
    Profile.wellFormed { tiny .left .msbFirst with poly := 2 } = false := by decide

theorem test_wf_profile_seed_mask : Profile.wellFormed { tiny .left .msbFirst with seed := 0x10 } = false ∧
    Profile.wellFormed { tiny .left .msbFirst with finalMask := 0x10 } = false := by decide

theorem test_wf_data_set : LaneMode.wellFormed 4 (.serial { input with data := 3 }) = false ∧
    LaneMode.wellFormed 4 (.parallel { input with data := 0 }) = false ∧
    LaneMode.wellFormed 4 (.parallel { input with data := 0x1F }) = false ∧
    LaneMode.wellFormed 4 (.parallel { input with data := 0xF }) = true := by decide

theorem test_wf_start : StartKind.allowed .host (.edge { line := 0, edge := .rising }) = false := by decide

theorem test_wf_stop : StopKind.allowed .host (.edge { line := 0, edge := .rising }) = false ∧
    StopKind.allowed .host (.count 0) = false ∧ StopKind.allowed .host (.count (2 ^ 32)) = false := by decide

theorem test_wf_count_range : CountRange.wellFormed { min := 2, max := 1 } = false ∧
    CountRange.wellFormed { min := 0, max := 2 ^ 32 } = false := by decide

theorem test_wf_lane : Lane.wellFormed 4 { lane with sampleLimit := some 0 } = false ∧
    Lane.wellFormed 4 { lane with sampleLimit := some (2 ^ 32) } = false ∧
    Lane.wellFormed 4 { lane with expectedResidue := some 0x10 } = false ∧ Lane.wellFormed 4 lane = true := by decide

theorem test_wf_on_fail : OnFail.wellFormed (.retry 0 .halt) = false ∧ OnFail.wellFormed (.retry 8 .halt) = false := by
  decide

theorem test_wf_step : StepRecord.wellFormed (fun _ => some 4) (stepOf []) = false ∧
    StepRecord.wellFormed (fun _ => some 4) (stepOf (List.replicate 9 lane)) = false ∧
    StepRecord.wellFormed (fun _ => some 4) (stepOf [lane, lane]) = false ∧
    StepRecord.wellFormed (fun _ => none) (stepOf [lane]) = false ∧
    StepRecord.wellFormed (fun _ => some 4) { stepOf [lane] with timeLimit := 2 ^ 16 } = false ∧
    StepRecord.wellFormed (fun _ => some 4) { stepOf [lane] with settle := some (2 ^ 16) } = false ∧
    StepRecord.wellFormed (fun _ => some 4) (stepOf [lane, hostLane]) = true := by decide

/-! ### The spec's worked examples, one step at a time -/

/-- Reset is what POWER_ON leaves (spec/09 R170, R174). -/
theorem test_reset_is_power_on : after (exec (.powerOn 0 0 false) State.reset) id = some State.reset := by
  decide +kernel

/-- The START notice POWER_UP as the model holds it has the check of spec/08 R138. -/
theorem test_start_notice_check : State.startInFlight.frame = mkFrame 0 0x40 [0, 1] := by decide +kernel

/-- spec/01 R11: 123456789 through the two fixed profiles. -/
theorem test_known_answers :
    signatureOf fixed14 [0x31, 0x32, 0x33, 0x34, 0x35, 0x36, 0x37, 0x38, 0x39] = 0x29B1 ∧
    signatureOf fixed15 [0x31, 0x32, 0x33, 0x34, 0x35, 0x36, 0x37, 0x38, 0x39] = 0xCBF43926 := by decide +kernel

/-- spec/01 1.8.1 and 1.8.2: serial folds to the left and to the right. -/
theorem test_serial_folds :
    [true, false, true, true, false].foldl (serialFold (tiny .left .msbFirst)) 0 = 0xF ∧
    [true, true, false, true].foldl (serialFold (tiny .right .msbFirst)) 9 = 3 := by decide +kernel

/-- spec/01 1.8.3: parallel folds in both directions. -/
theorem test_parallel_folds :
    [[true, false, true], [true, true, false], [false, true, true]].foldl (parallelFold (tiny .left .msbFirst)) 0 = 7 ∧
    [[true, false, true], [true, true, false], [false, true, true]].foldl (parallelFold (tiny .right .msbFirst)) 0
      = 0xE := by decide +kernel

/-- spec/02 2.6.1, times 0 and 15: a change of PL3 with F = 5 us waits, and is accepted after 5 us. -/
def noisy (pin : Bool) (st : FilterState) : State :=
  quiet.setLine 3 { pin := pin, invert := false, filter := 5, level := false, state := st, mark := false }

theorem test_pin_change : after (exec (.pinChange 0 3 true) (noisy false .steady)) (·.probes[3]) =
    some { pin := true, invert := false, filter := 5, level := false, state := .pending 0, mark := false } := by
  decide +kernel

/-- A change back at 3 us is dropped; at 5 us the level has held for F: it is accepted, and the line is PENDING again
(R22). -/
theorem test_pin_change_back : after (exec (.pinChange (micros 3) 3 false) (noisy true (.pending 0))) (·.probes[3]) =
    some { pin := false, invert := false, filter := 5, level := false, state := .steady, mark := false } ∧
    after (exec (.pinChange (micros 5) 3 false) (noisy true (.pending 0))) (·.probes[3]) =
    some { pin := false, invert := false, filter := 5, level := true, state := .pending (micros 5), mark := true } := by
  decide +kernel

theorem test_filter_expiry :
    after (exec (.filterExpiry (micros 15) 3) (noisy true (.pending (micros 10)))) (·.probes[3]) =
    some { pin := true, invert := false, filter := 5, level := true, state := .steady, mark := true } := by
  decide +kernel

/-- spec/02 2.6.2, first row: F = 50 restarts the pending time at 12 us. -/
theorem test_set_probe : after (exec (.setProbe (micros 12)) (ask 0x0F [8, 0, 0, 50] (noisy true (.pending 0))))
    (·.probes[3].state) = some (.pending (micros 12)) := by decide +kernel

/-- spec/02 R30: PL3 at level 1 with its mark. -/
theorem test_read_probes : sent (exec (.readProbes 0) (ask 0x10 [] (quiet.setLine 3
    { pin := true, invert := false, filter := 5, level := true, state := .steady, mark := true }))) =
    some [0, 0, 8, 0, 8, 0] := by decide +kernel

/-- CU0 of spec/03 3.10.1 in a phase with an edge of PL0 that waits, and PL1 and PL2 at the given levels. -/
def window (ph : Phase) (samples transitions : Nat) (previous : Option (List Bool)) (residue : Word32)
    (d q : Bool) : State :=
  let b := { bound ph lane (tiny .left .msbFirst) with
    samples := samples, transitions := transitions, previous := previous, residue := residue,
    inbox := [{ line := 0, kind := .rising }] }
  ((pair b .opened).setLine 1 (ProbeLine.afterReset d)).setLine 2 (ProbeLine.afterReset q)

/-- spec/03 3.10.1, time 100: the start edge opens the window and is not sampled. -/
theorem test_start_edge : after (exec (.edgeReceipt (micros 100) 0 0 .rising) (window .armed 0 0 none 0 true true))
    (fun s => s.units[0].map fun b => (b.phase, b.openedAt, b.samples)) =
    some (some (.opened, some (micros 100), 0)) := by decide +kernel

/-- spec/03 3.10.1, time 160: the fifth sample closes the window STOP with residue 0xF and 3 transitions. -/
theorem test_count_stop : after (exec (.edgeReceipt (micros 160) 0 0 .rising)
    (window .opened 4 2 (some [true]) 0xE false true)) (·.seq.reports[0]) =
    some (some { unit := 0, reason := .stop, residue := 0xF, samples := 5, transitions := 3, duration := 160 }) := by
  decide +kernel

/-- The HOST lane of spec/03 3.10.3 on CU1, stop COUNT 13, with 8 samples taken. -/
def fed : State :=
  let b := bound .opened { hostLane with profile := 2, stop := .count 13 } (tiny .left .msbFirst)
  withUnit 1 { b with samples := 8, transitions := 5, previous := some [false], residue := 0xD } (planned .capturing
    [lane, { hostLane with profile := 2, stop := .count 13 }])

/-- spec/03 3.10.3: the count stop falls inside the second FEED. -/
theorem test_feed : sent (exec (.feed 0) (ask 0x16 [1, 1, 0xB4, 0xFF] fed)) = some [0, 0, 0, 3] := by decide +kernel

theorem test_feed_counts : after (exec (.feed 0) (ask 0x16 [1, 1, 0xB4, 0xFF] fed))
    (fun s => s.units[1].map fun b => (b.phase, b.residue, b.samples, b.transitions)) =
    some (some (.closed, 7, 13, 9)) := by decide +kernel

/-- spec/03 R53: MARK START of a unit whose start kind is not HOST is accepted with an empty mask. -/
theorem test_mark_start : sent (exec (.markStart 0) (ask 0x15 [0xFF, 0] (pair (bound .armed lane fixed14) .opened))) =
    some [0, 0, 0] := by decide +kernel

/-- spec/03 R53: MARK STOP closes the OPEN unit of stop kind HOST, here CU1. -/
theorem test_mark_stop : sent (exec (.markStop 0) (ask 0x15 [0xFF, 1] (pair (bound .armed lane fixed14) .opened))) =
    some [0, 0, 2] := by decide +kernel

/-- spec/04 4.6.1: the six versions of the request, header and lanes as 10.5 lays them out. -/
def header : List Byte := [10, 3, 0xE8, 3, 20, 0, 2, 0x0F, 0xF4, 1, 0x06, 2, 1]
def lane1 : List Byte := [0x40, 0x0E, 0x13, 2, 0, 0, 6, 0x26, 0x0F, 0x1D, 0, 0]
def lane2 (slot d0 r1 : Byte) : List Byte :=
  [0x13, 0x20 + slot, 0x37, d0, 0xFF, 0, 0x27, 0, 1, 0, 0, 0x5A, r1, 0, 0, 0, 1, 0, 0, 0, 1, 0, 0]
def lane3 (unit : Byte) : List Byte := [0xA0 + unit, 0x4F, 0]
def editing : State := { quiet with profiles := quiet.profiles.set 2 (some
  { width := 8, poly := 7, seed := 0, finalMask := 0, direction := .left, byteOrder := .msbFirst }) }
def defined (p : List Byte) : Option (List Byte) := sent (exec (.defineStep 0) (ask 6 p editing))

theorem test_define_step_refusals :
    defined ([10, 3, 0xE8, 3, 20, 0, 0, 0x07, 0xF4, 1, 0x06, 2] ++ lane1 ++ lane2 2 0 0 ++ lane3 3) = some [3, 0] ∧
    defined (header ++ lane1 ++ lane2 2 0 0 ++ lane3 3) = some [0x0C, 3] ∧
    defined (header ++ lane1 ++ lane2 5 0 0 ++ lane3 3) = some [8, 2] ∧
    defined (header ++ lane1 ++ lane2 2 0x80 0 ++ lane3 5) = some [3, 2] ∧
    defined (header ++ lane1 ++ lane2 2 0 1 ++ lane3 5) = some [3, 2] := by decide +kernel

theorem test_define_step : defined (header ++ lane1 ++ lane2 2 0 0 ++ lane3 5) = some [0, 0] := by decide +kernel

/-- spec/04 R75: READ STEP returns the bytes that 10.5 gives the step of this file. -/
theorem test_read_step : sent (exec (.readStep 0) (ask 7 [10] (planned .idle [hostLane]))) =
    some ([0, 0, 10, 1, 0xE8, 3, 20, 0, 2, 0x0F, 0xF4, 1, 0x06, 2, 1] ++ [0x21, 0x4E, 0]) := by decide +kernel

/-- spec/04 4.6.2: ERASE STEPS of one step counts it; ERASE PROFILE of a slot in use is refused. -/
theorem test_erase_steps : sent (exec (.eraseSteps 0) (ask 8 [0, 95] (planned .idle [hostLane]))) = some [0, 0, 1] := by
  decide +kernel

theorem test_erase_profile : sent (exec (.eraseProfile 0) (ask 0x0D [2] (planned .idle [lane]))) = some [7, 0] ∧
    sent (exec (.eraseProfile 0) (ask 0x0D [2] (planned .idle [hostLane]))) = some [0, 1] := by decide +kernel

/-- spec/01 R13, R14 on a width 8 profile: detail 2 for the polynomial with its top coefficient. -/
theorem test_define_profile :
    sent (exec (.defineProfile 0) (ask 0x0B [2, 8, 7, 0, 0, 0, 0, 0, 0, 0, 0, 0, 0, 0, 0, 0] quiet)) = some [0, 0] ∧
    sent (exec (.defineProfile 0) (ask 0x0B [2, 8, 7, 1, 0, 0, 0, 0, 0, 0, 0, 0, 0, 0, 0, 0] quiet)) = some [3, 2] := by
  decide +kernel

theorem test_read_profile : sent (exec (.readProfile 0) (ask 0x0C [14] quiet)) =
    some [0, 0, 14, 16, 0x21, 0x10, 0, 0, 0xFF, 0xFF, 0, 0, 0, 0, 0, 0, 0, 0] := by decide +kernel

/-- spec/01 R11, R17: COMPUTE with fixed profile 15 over 123456789. -/
theorem test_compute : sent (exec (.compute 0)
    (ask 0x0E [15, 0x31, 0x32, 0x33, 0x34, 0x35, 0x36, 0x37, 0x38, 0x39] quiet)) =
    some [0, 0, 32, 0x26, 0x39, 0xF4, 0xCB] := by decide +kernel

/-- spec/05 R82, R84: RUN starts step 10, which settles for 500 us and drives FL0 high. -/
theorem test_run : sent (exec (.run 0) (ask 0x11 [0, 95, 1, 0] (planned .idle [hostLane]))) = some [0, 0, 10] := by
  decide +kernel

theorem test_run_settles : after (exec (.run 0) (ask 0x11 [0, 95, 1, 0] (planned .idle [hostLane])))
    (fun s => (s.seq.plan, s.seq.settleEndAt, s.flags[0].patternLevel, s.tx.plan.map (·.condition))) =
    some (.settling, some (micros 500), true, some .running) := by decide +kernel

/-- A step whose settle time runs to 500 us. -/
def settling : State :=
  let s := planned .settling [hostLane]
  { s with seq := { s.seq with settleEndAt := some (micros 500) } }

/-- spec/05 R85: the end of the settle time arms the unit and starts the step timer of 20 ms. -/
theorem test_settle_end : after (exec (.settleEnd (micros 500)) settling)
    (fun s => (s.seq.plan, s.units[1].map (·.phase), s.seq.stepTimerAt)) =
    some (.capturing, some .opened, some (micros 500 + millis 20)) := by decide +kernel

/-- A step of one lane whose step timer runs to 20 ms, with the queue full. -/
def timing (b : Bound) (k : Nat) : State :=
  let s := withUnit b.lane.unit b (planned .capturing [b.lane])
  { s with queue := queueOf 100 k, seq := { s.seq with stepTimerAt := some (millis 20) } }

/-- spec/05 R86, R91: the expiry closes the unit, and with a full queue the plan is HELD with verdict FAULT. -/
theorem test_step_timer : after (exec (.stepTimerExpiry (millis 20)) (timing (bound .opened hostLane fixed14) 64))
    (fun s => (s.seq.plan, s.seq.heldVerdict, s.units[1].map (·.reason))) =
    some (.held, some .fault, some (some .timeLimit)) := by decide +kernel

/-- FL0 shows WINDOW as 1; the output waits for `changes`. -/
def showing (changes : List Bool) (s : State) : State :=
  { s with flags := s.flags.set 0 { FlagLine.afterReset with
      source := .window, output := true, target := true, changes := changes } }

/-- CU1 OPEN before CU0 ARMED in a step with no settle time: at the expiry the plan retries it. -/
def retrying : State :=
  let r := { stepOf [hostLane, lane] with settle := none }
  let s := pair (bound .armed lane fixed14) .opened
  showing [] { s with steps := s.steps.set 10 (some r), seq := { s.seq with stepCopy := some r, stepTimerAt := some (millis 20) } }

/-- spec/03 R34, spec/05 R87: each close is a happening, so WINDOW's fall at the first and its rise at the last are both
noted. -/
theorem test_step_timer_window : after (exec (.stepTimerExpiry (millis 20)) retrying)
    (fun s => (s.seq.plan, s.seq.attempt, s.flags[0].changes)) = some (.capturing, 1, [false, true]) := by decide +kernel

/-- spec/05 R98, R99, R100: the replies of PAUSE, RESUME and ABORT by plan state. -/
theorem test_pause : sent (exec (.pause 0) (ask 0x12 [] quiet)) = some [5, 0] ∧
    after (exec (.pause 0) (ask 0x12 [] settling)) (·.seq.pausePending) = some true := by decide +kernel

theorem test_resume : sent (exec (.resume 0) (ask 0x13 [] settling)) = some [6, 0] ∧
    after (exec (.resume 0) (ask 0x13 [] (planned .paused [hostLane]))) (·.seq.plan) = some .settling := by
  decide +kernel

theorem test_abort : after (exec (.abort 0) (ask 0x14 [] settling)) (fun s => (s.seq.plan, s.seq.lastOutcome)) =
    some (.idle, some { kind := .aborted, step := 10, iteration := 0 }) := by decide +kernel

/-- spec/10 10.7: STATUS of a plan that settles at step 10 of the range 10 to 20, loop count 1. -/
theorem test_status : sent (exec (.status 0) (ask 2 [] settling)) =
    some [0, 0, 1, 10, 20, 1, 0, 10, 0, 0, 0, 0, 0, 0, 0, 0, 0, 0, 0, 0, 0, 0, 0, 0, 0] := by decide +kernel

/-- spec/05 R106: a PLAN reset empties the queue and keeps N. -/
theorem test_reset_plan : after (exec (.resetPlan 0) (ask 4 [0] { quiet with queue := queueOf 5020 20 })) (·.queue) =
    some { records := [], next := 5020 } := by decide +kernel

theorem test_reset_full : after (exec (.resetFull 0) (ask 4 [1] quiet))
    (fun s => (s.interp.resetPending, s.tx.inFlight.map (·.attached))) = some (true, some .fullReset) := by
  decide +kernel

/-- The queue of spec/06 6.9.3 after the post of five records: nine records through 1, N = 2. -/
def wrapped : State := { quiet with queue := queueOf 2 9 }

theorem test_ack_results : sent (exec (.ackResults 0) (ask 0x0A [0xFF, 0xFF] wrapped)) = some [0, 0, 7] ∧
    sent (exec (.ackResults 0) (ask 0x0A [3, 0] wrapped)) = some [0x0E, 0] := by decide +kernel

theorem test_ack_results_behind :
    sent (exec (.ackResults 0) (ask 0x0A [0xE8, 0xFD] { quiet with queue := queueOf 2 2 })) = some [0, 0, 0] := by
  decide +kernel

/-- spec/10 10.6: one record as READ RESULTS carries it, of the two held; a start that is not held. -/
theorem test_read_results : sent (exec (.readResults 0) (ask 9 [1] { quiet with queue := queueOf 2 2 })) =
    some ([0, 0, 1, 2] ++ [0, 0, 3, 0, 0, 0, 0, 8, 0x70, 0, 1, 0xB1, 0x29, 0, 0, 72, 0, 0, 0, 30, 0, 0, 0,
      0, 0, 0, 0, 9, 0, 0, 0]) ∧
    sent (exec (.readResults 0) (ask 9 [1, 2, 0] { quiet with queue := queueOf 2 2 })) = some [0x0F, 0] := by
  decide +kernel

/-- FL2 of spec/07 7.6.1: source FAIL, W = 100 us. -/
def failLine (pulse hold : Option Nat) (out : Bool) : State :=
  { quiet with flags := quiet.flags.set 2 { FlagLine.afterReset with
      source := .fail, width := 100, pulseEnd := pulse, holdEnd := hold, output := out, target := out } }

theorem test_target_change :
    after (exec (.targetChange 0 2) { failLine (some (micros 100)) none false with
      flags := (failLine (some (micros 100)) none false).flags.set 2
        { (failLine (some (micros 100)) none false).flags[2] with changes := [true] } })
      (fun s => (s.flags[2].output, s.flags[2].holdEnd)) = some (true, some (micros 100)) := by decide +kernel

theorem test_hold_end : after (exec (.holdEnd (micros 100) 2) (failLine (some (micros 140)) (some (micros 100)) true))
    (fun s => (s.flags[2].output, s.flags[2].holdEnd)) = some (true, none) := by decide +kernel

theorem test_pulse_end : after (exec (.pulseEnd (micros 140) 2) (failLine (some (micros 140)) none true))
    (fun s => (s.flags[2].output, s.flags[2].pulseEnd, s.flags[2].holdEnd)) =
    some (false, none, some (micros 240)) := by decide +kernel

theorem test_set_flag : after (exec (.setFlag 0) (ask 0x17 [1, 3, 1, 50, 0] quiet))
    (fun s => (s.flags[0].source, s.flags[0].output, s.flags[0].holdEnd)) =
    some (.window, true, some (micros 50)) := by decide +kernel

/-- FL0 of source PATTERN with W = 50 us, a step's level 1 and the rest level 0 after it waiting at one instant. -/
def patternLine (changes : List Bool) : State :=
  { quiet with flags := quiet.flags.set 0 { FlagLine.afterReset with source := .pattern, width := 50, changes := changes } }

/-- spec/07 R131: a toggle of invert turns the output at once and the changes that wait. R126: a step start and a run
end at one instant are two changes, so that a PATTERN line kept PATTERN in IDLE still shows its pulse of W. -/
theorem test_set_flag_changes : after (exec (.setFlag 0) (ask 0x17 [1, 3, 1, 0, 0] (showing [false, true]
    (pair (bound .armed lane fixed14) .opened)))) (fun s => (s.flags[0].output, s.flags[0].changes)) =
    some (false, [true, false]) ∧
    after (exec (.setFlag 0) (ask 0x17 [1, 1, 0, 50, 0] (patternLine [true, false])))
      (fun s => (s.flags[0].output, s.flags[0].holdEnd, s.flags[0].target)) = some (true, some (micros 50), false) := by
  decide +kernel

theorem test_drive_flags : after (exec (.driveFlags 0) (ask 0x18 [0xF, 5] quiet)) (fun s => s.flags.map (·.output)) =
    some #v[true, false, true, false] := by decide +kernel

/-- The receiver in a state, with a character in reception. -/
def receiving (x : RxState) : State :=
  { quiet with rx := { quiet.rx with state := x, character := some { rate := .b115200, since := 0 } } }

/-- spec/08 8.9.1 and 8.9.2: SYNC, and a LEN above 248. -/
theorem test_character : after (exec (.character 9 0xC5) (receiving .hunt)) (fun s => (s.rx.state, s.rx.gapFrom)) =
    some (.header [] 0xFFFF, some 9) := by decide +kernel

theorem test_length_fault : after (exec (.character 9 0xFA) (receiving (.header [] 0xFFFF)))
    (fun s => (s.rx.state, s.tx.inFlight.map (·.frame.payload))) = some (.hunt, some [1, 2, 1]) := by decide +kernel

theorem test_start_bit : after (exec (.startBit 9 false) quiet) (·.rx.character) =
      some (some { rate := .b115200, since := 9 }) ∧
    after (exec (.startBit 0 true) quiet) id = some quiet := by decide +kernel

theorem test_low_stop_bit : after (exec (.lowStopBit 9 3) (receiving (.header [] 0xFFFF)))
    (fun s => (s.rx.state, s.rx.low)) = some (.hunt, .watched 3) := by decide +kernel

theorem test_framing : after (exec (.framing 9) { quiet with rx := { quiet.rx with low := .watched 3 } })
    (fun s => (s.rx.low, s.tx.inFlight.map (·.frame.payload))) = some (.untimed, some [3, 8, 1]) := by decide +kernel

theorem test_gap : after (exec (.gap (millis 25)) { quiet with
    rx := { quiet.rx with state := .header [] 0xFFFF, gapFrom := some 0 } })
    (fun s => (s.rx.state, s.tx.inFlight.map (·.frame.payload))) = some (.hunt, some [0, 1, 1]) := by decide +kernel

theorem test_break : after (exec (.brk (millis 10)) { quiet with rx := { quiet.rx with low := .watched 0 } })
    (fun s => (s.rx.low, s.tx.inFlight.map (·.frame.payload))) = some (.afterBreak, some [5, 0x20, 1]) := by
  decide +kernel

/-- spec/08 R154, R150: a switch to another rate drops the character; a low from its falling edge of 10 ms is a break. -/
theorem test_break_of_dropped : after (exec (.frameSent 450000) { receiving .hunt with
      tx := { quiet.tx with inFlight := some { State.startInFlight with attached := .rateSwitch .b9600 } } })
      (fun s => (s.rx.rate, s.rx.character, s.rx.low)) = some (.b9600, none, .dropped 0) ∧
    after (exec (.brk (millis 10)) { quiet with rx := { quiet.rx with low := .dropped 0 } }) (·.rx.low) =
      some .afterBreak := by decide +kernel

theorem test_return_high : after (exec (.rxdReturnHigh 9) { quiet with rx := { quiet.rx with low := .afterBreak } })
    (·.rx.low) = some .untimed := by decide +kernel

/-- The START notice has 9 characters of 10 bits at 115200: it has left at 9 x 50000 ticks, not a tick before. -/
theorem test_frame_sent : after (exec (.frameSent 450000) State.reset) (·.tx.inFlight) = some none ∧
    after (exec (.frameSent 449999) State.reset) id = some (State.reset.advance 449999) := by decide +kernel

theorem test_hello : sent (exec (.hello 0) (ask 1 [] quiet)) =
    some [0, 0, 1, 0x08, 0x16, 16, 8, 16, 96, 64, 4, 8, 248] := by decide +kernel

theorem test_unknown_kind : sent (exec (.unknownKind 0) (ask 0x19 [1, 2] quiet)) = some [1, 0] := by decide +kernel

theorem test_set_notices : sent (exec (.setNotices 0) (ask 3 [0xFD] quiet)) = some [0, 0, 5] := by decide +kernel

/-- spec/10 R175: rate 115200 is 0x00, 0xC2, 0x01, 0x00; a rate of 115201 is RANGE. -/
theorem test_set_link : sent (exec (.setLink 0) (ask 5 [0, 0xC2, 1, 0, 250] quiet)) = some [0, 0] ∧
    sent (exec (.setLink 0) (ask 5 [1, 0xC2, 1, 0, 250] quiet)) = some [3, 0] := by decide +kernel

theorem test_reset_line : after (exec (.resetLineAssert 0) quiet) (·.nResetLow) = some true ∧
    sent (exec (.resetLine 0 false) { quiet with nResetLow := true }) = some [1, 1] := by decide +kernel

/-! ### Each statement with hypotheses has a state that meets them

A request statement asks for `Takes`, a KIND, a payload, and conditions on the state: `takes_ask` gives the first for
every request sent to one of the states below, and the KIND and payload are those of `req`. -/

/-- The states below can take a request. -/
theorem takes_quiet (k : Byte) (p : List Byte) : Takes (ask k p quiet) (req k p) [] := takes_ask _ k p (by rfl)

theorem takes_settling (k : Byte) (p : List Byte) : Takes (ask k p settling) (req k p) [] := takes_ask _ k p (by rfl)

theorem takes_planned (k : Byte) (p : List Byte) (x : PlanState) (ls : List Lane) :
    Takes (ask k p (planned x ls)) (req k p) [] := takes_ask _ k p (by rfl)

theorem takes_pair (k : Byte) (p : List Byte) (b : Bound) (ph : Phase) :
    Takes (ask k p (pair b ph)) (req k p) [] := takes_ask _ k p (by rfl)

theorem witness_IdleStepDoesEarliestHappening : quiet.pending = [] ∧ quiet.ownHappenings.length = 0 ∧
    State.reset.pending = [] ∧ State.reset.ownHappenings.length = 1 := by decide +kernel

theorem witness_ResetsRestartPart : ({ quiet with nResetLow := true } : State).nResetLow = true ∧
    quiet.nResetLow = false := by decide

theorem witness_ResetLineHoldsPartSilent : ({ quiet with nResetLow := true } : State).nResetLow = true ∧
    quiet.nResetLow = false := by decide

/-- A step of one reported lane with 63 records held, which fits, and with 64, which does not. -/
def ended (k : Nat) : State :=
  let s := timing (bound .closed lane fixed14) k
  { s with seq := { s.seq with reports := s.seq.reports.set 0 (some report) } }

/-- An attempt of one lane HELD behind a full queue; sequence 99 is the newest record, at distance 0. -/
def held : State :=
  let s := ended 64
  { s with seq := { s.seq with plan := .held, heldVerdict := some .pass } }

/-- A CAPTURING plan with two OPEN units, and a step on it that answers a next state. -/
def busy : State := { pair (bound .opened lane (tiny .left .msbFirst)) .opened with pending := [.gap 3] }

theorem busy_steps : ∃ s', step busy = .next s' := ⟨_, rfl⟩

theorem witness_StepKeepsProbesConsistent : busy.probesConsistent ∧ ∃ s', step busy = .next s' :=
  ⟨by intro n; fin_cases n <;> rfl, busy_steps⟩

/-- A check of `tablesSound` that runs. -/
theorem tablesSound_of_check {s : State} (h1 : ∀ n : Fin 14, s.profiles[n].all Profile.wellFormed = true)
    (h2 : ∀ n : Fin 96, s.steps[n].all (fun r => decide (r.number = n) && r.wellFormed s.widthAt) = true) :
    s.tablesSound := by
  refine ⟨fun n p hp => ?_, fun n r hr => ?_⟩
  · have := h1 n
    rw [hp] at this
    exact this
  · have := h2 n
    rw [hr] at this
    simpa using this

theorem busy_tablesSound : busy.tablesSound := tablesSound_of_check (by decide +kernel) (by decide +kernel)

theorem witness_StepKeepsTablesSound : busy.tablesSound ∧ ∃ s', step busy = .next s' := ⟨busy_tablesSound, busy_steps⟩

/-- A check of the last two parts of `unitsBound` that runs. -/
def unitsCheck (s : State) : Bool :=
  decide (∀ j : Fin 8, ((s.seq.stepCopy.bind fun r => r.lanes[j.val]?).all fun l =>
    (s.units[l.unit]).any fun b => decide (b.phase = .closed ↔ s.seq.reports[j] ≠ none)) = true) &&
  decide (s.seq.plan = .held → ∀ u : Fin 8, ((s.units[u]).all fun b => decide (b.phase = .closed)) = true)

theorem unitsBound_of_check {s : State}
    (h1 : ∀ u : Fin 8, s.units[u] ≠ none → (s.seq.plan = .capturing ∨ s.seq.plan = .held) ∧ s.seq.namesUnit u = true)
    (h2 : s.seq.stepCopy = s.steps[s.seq.step] ∧ s.seq.stepCopy ≠ none) (h3 : s.seq.plan ≠ .settling)
    (h : unitsCheck s = true) : s.unitsBound := by
  simp only [unitsCheck, Bool.and_eq_true, decide_eq_true_eq] at h
  refine ⟨h1, fun _ => h2, fun hs => absurd hs h3, fun _ r j l hr hl => ?_, fun hh u b hb => ?_⟩
  · have := h.1 j
    rw [hr] at this
    simp only [Option.bind_some, hl, Option.all_some, Option.any_eq_true, decide_eq_true_eq] at this
    exact this
  · have := h.2 hh u
    rw [hb] at this
    simpa using this

/-- CAPTURING with open units, and HELD behind a full queue with its one unit CLOSED. -/
theorem witness_StepKeepsUnitsBound : busy.tablesSound ∧ busy.unitsBound ∧ (∃ s', step busy = .next s') ∧
    held.tablesSound ∧ held.unitsBound ∧ held.seq.plan = .held ∧
    ∃ s', step { held with pending := [.gap 3] } = .next s' :=
  ⟨busy_tablesSound, unitsBound_of_check (by decide +kernel) (by decide +kernel) (by decide) (by decide +kernel), busy_steps,
    tablesSound_of_check (by decide +kernel) (by decide +kernel),
    unitsBound_of_check (by decide +kernel) (by decide +kernel) (by decide) (by decide +kernel), rfl, _, rfl⟩

theorem witness_StepKeepsCountsSound : (∀ u : Fin 8, busy.units[u].all (fun b =>
      decide (b.transitions ≤ b.samples - 1 ∧ b.samples ≤ Config.max32) && decide (b.samples = 0 → b.previous = none) &&
        decide (b.phase = .armed → b.samples = 0)) = true) ∧
    (∀ i : Fin 8, busy.seq.reports[i] = none) ∧ busy.queue.records = [] ∧ ∃ s', step busy = .next s' :=
  ⟨by decide +kernel, by decide +kernel, by decide +kernel, busy_steps⟩

theorem witness_StepKeepsQueueSound : (queueOf 2 9).sound ∧ ∃ s', step { busy with queue := queueOf 2 9 } = .next s' :=
  ⟨⟨by decide, by decide +kernel⟩, _, rfl⟩

theorem witness_StepKeepsFlagLinesSound : busy.flagsSettled ∧ busy.flagsFollow ∧ retrying.flagsFollow ∧
    (∃ s', step { retrying with pending := [.stepTimerExpiry (millis 20)] } = .next s') ∧ quiet.patternsRest ∧ quiet.seq.plan = .idle ∧
    (∃ s', step busy = .next s') ∧ ∃ s', step { quiet with pending := [.gap 3] } = .next s' :=
  ⟨by unfold State.flagsSettled; decide +kernel, by unfold State.flagsFollow; decide +kernel,
    by unfold State.flagsFollow; decide +kernel, ⟨_, rfl⟩, by unfold State.patternsRest; decide +kernel, rfl, busy_steps,
    _, rfl⟩

/-- Reset pending is set and the reply with the FULL reset is in flight. -/
def owing : State := { quiet with
  interp := { quiet.interp with resetPending := true, cache := [{ tag := 7, frame := mkFrame 7 0x84 [0, 0] }] }
  tx := { quiet.tx with inFlight := some { frame := mkFrame 7 0x84 [0, 0], role := .reply, attached := .fullReset,
                                           beganAt := 0, rate := .b115200 } }
  pending := [.gap 3] }

theorem witness_StepKeepsLinkBounded : owing.interp.cacheSound ∧ owing.linkBounded ∧ owing.resetOwed ∧
    owing.interp.resetPending = true ∧ ∃ s', step owing = .next s' :=
  ⟨⟨by decide, by decide⟩, ⟨by decide, by decide, by decide⟩, fun _ => .inr rfl, rfl, _, rfl⟩

/-- Widths 4 and 32, the ends of the range, in both directions. -/
theorem witness_LeftFoldByStage : (tiny .left .msbFirst).wellFormed = true ∧ (0xF : Word32).toNat < 2 ^ 4 ∧
    { fixed15 with direction := .left }.wellFormed = true ∧ (0xFFFFFFFF : Word32).toNat < 2 ^ fixed15.width := by
  decide

theorem witness_RightFoldByStage : (tiny .right .msbFirst).wellFormed = true ∧ (0xF : Word32).toNat < 2 ^ 4 ∧
    fixed15.wellFormed = true ∧ fixed15.direction = .right ∧ (0xFFFFFFFF : Word32).toNat < 2 ^ fixed15.width := by
  decide

theorem witness_ParallelFoldByStage : (tiny .left .msbFirst).wellFormed = true ∧ (0xF : Word32).toNat < 2 ^ 4 ∧
    [true, false, true, true].length ≤ (tiny .left .msbFirst).width := by decide

theorem witness_FixedProfilesKnownAnswers :
    ([0x31, 0x32] : List Byte) ++ [0x33, 0x34, 0x35, 0x36, 0x37, 0x38, 0x39] =
      [0x31, 0x32, 0x33, 0x34, 0x35, 0x36, 0x37, 0x38, 0x39] := by decide

/-- A STEADY line with F = 0 and with F = 5, and a PENDING one before and at its time. -/
theorem witness_ProbeEdgesFollowFilter : quiet.probes[3].consistent ∧ quiet.probes[3].pin ≠ true ∧
    quiet.probes[3].filter = 0 ∧ (noisy false .steady).probes[3].consistent ∧ (noisy false .steady).probes[3].filter = 5 ∧
    (noisy true (.pending 10)).probes[3].consistent ∧ (noisy true (.pending 10)).probes[3].pin ≠ false ∧
    (noisy true (.pending 10)).probes[3].state = .pending 10 ∧ 0 < (noisy true (.pending 10)).probes[3].filter ∧ max 0 (10 + micros 5 - 1) < 10 + micros 5 ∧
    10 + micros 5 ≤ max 0 (10 + micros 5) :=
  ⟨rfl, by decide, rfl, rfl, rfl, by show (true ^^ false) ≠ false; decide, by decide, rfl, by decide, by decide, by decide⟩

/-- Deliveries: a CLOSED unit, a HOST lane, a named line and a line that is not named. -/
theorem witness_ProbeEdgesFollowFilter_delivery : (bound .closed lane fixed14).phase = .closed ∧
    (bound .opened hostLane fixed14).lane.mode = .host ∧ (bound .armed lane fixed14).phase ≠ .closed ∧
    (bound .armed lane fixed14).lane.mode = .serial input ∧ input.data.getLsbD 1 = true ∧ input.data.getLsbD 9 = false ∧
    input.clock.line ≠ 9 := by decide

theorem witness_ProbeRequestsSetAndReport : Takes (ask 0x0F [0xFF, 0xFF, 1, 255] quiet) (req 0x0F [0xFF, 0xFF, 1, 255]) [] ∧
    quiet.seq.plan = .idle ∧ Takes (ask 0x0F [0, 0, 0, 0] settling) (req 0x0F [0, 0, 0, 0]) [] ∧
    settling.seq.plan ≠ .idle ∧ Takes (ask 0x10 [] quiet) (req 0x10 []) [] ∧ Takes (ask 0x10 [0] quiet) (req 0x10 [0]) [] :=
  ⟨takes_quiet _ _, rfl, takes_settling _ _, by decide, takes_quiet _ _, takes_quiet _ _⟩

/-! #### Units -/

/-- The unit of a bound copy has one edge to receive. -/
theorem receives_one (b : Bound) (ph : Phase) (e : ProbeEdge) :
    Receives (pair { b with inbox := [e] } ph) 0 { b with inbox := [e] } e { b with inbox := [] } :=
  ⟨rfl, [], [], rfl, by simp, rfl⟩

/-- The edge of PL0 that clocks `lane`, and an edge that does not. -/
def clockEdge : ProbeEdge := { line := 0, kind := .rising }
def otherEdge : ProbeEdge := { line := 0, kind := .falling }

theorem witness_ArmedUnitOpensOnStartEdge : ∃ b s left,
    Receives s 0 b clockEdge left ∧ b.phase = .armed ∧ b.lane.start = .edge { line := 0, edge := .rising } :=
  ⟨_, _, _, receives_one (bound .armed lane fixed14) .opened clockEdge, rfl, rfl⟩

/-- The clock edge with the qualifier met and not met, and the edge of the other kind. -/
theorem witness_OpenUnitFoldsQualifiedClockEdge :
    (∃ b left, Receives (pair { bound .opened lane fixed14 with inbox := [clockEdge] } .opened) 0 b clockEdge left ∧
      b.phase = .opened ∧ b.lane.mode = .serial input ∧ b.lane.stop ≠ .edge { line := 0, edge := .rising } ∧
      b.lane.stop ≠ .count (min (2 ^ 32 - 1) (b.samples + 1)) ∧
      b.lane.sampleLimit ≠ some (min (2 ^ 32 - 1) (b.samples + 1))) ∧
    (window .opened 3 2 none 0 true true).probes[2].level = true ∧
    (window .opened 3 2 none 0 true false).probes[2].level = false ∧
    (((List.finRange 16).filter fun n => input.data.getLsbD n.val).map fun n =>
      ((window .opened 3 2 none 0 true true).probes[n]).level) = [true] ∧
    ∃ b s left, Receives s 0 b otherEdge left ∧ b.phase = .opened ∧
      b.lane.stop ≠ .edge { line := otherEdge.line, edge := otherEdge.kind } :=
  ⟨⟨_, _, receives_one _ _ _, rfl, rfl, by decide, by decide, by decide⟩, by decide +kernel, by decide +kernel,
    by decide +kernel, _, _, _, receives_one (bound .opened lane fixed14) .opened otherEdge, rfl, by decide⟩

/-- While CU1 has no report, a close of CU0 comes early. -/
theorem closes_early (b : Bound) (h : b.lane.unit = 0) : ClosesEarly (pair b .opened) 0 0 := by
  refine ⟨?_, _, hostLane, 1, rfl, rfl, by decide, rfl⟩
  simp [Sequencer.laneOf, pair, withUnit, planned, stepOf, h, List.findIdx?_cons]

/-- `lane` with another stop. -/
def stopping (k : StopKind) (limit : Option Nat) : Bound :=
  { bound .opened { lane with mode := .serial { input with qualifier := none }, stop := k, sampleLimit := limit } fixed14 with
    inbox := [clockEdge] }

theorem witness_StopsCloseWindow (k : StopKind) (limit : Option Nat) :
    ∃ left, Receives (pair (stopping k limit) .opened) 0 (stopping k limit) clockEdge left ∧
      (stopping k limit).phase = .opened ∧
      (stopping k limit).lane.mode = .serial { input with qualifier := none } ∧
      input.clock = { line := clockEdge.line, edge := clockEdge.kind } ∧
      ClosesEarly (pair (stopping k limit) .opened) 0 0 :=
  ⟨_, receives_one (stopping k limit) .opened clockEdge, rfl, rfl, rfl, closes_early _ rfl⟩

theorem witness_StopsCloseWindow_kinds :
    (stopping (.edge { line := 0, edge := .rising }) none).lane.stop = .edge { line := clockEdge.line, edge := clockEdge.kind } ∧
    ((stopping (.count 1) (some 1)).takeSample [false]).countClose = some .stop ∧
    ((stopping .host (some 1)).takeSample [false]).countClose = some .limit ∧
    ((stopping (.count 2) (some 2)).takeSample [false]).countClose = none := by decide +kernel

/-- CU0 OPEN with a met qualifier: the next sample reaches stop count 1, or sample limit 1. -/
def qualified (k : StopKind) (limit : Option Nat) : State :=
  { pair { bound .opened { lane with stop := k, sampleLimit := limit } fixed14 with inbox := [clockEdge] } .opened with
    probes := quiet.probes.set 2 (ProbeLine.afterReset true) }

theorem witness_StopsCloseWindow_qualified : ∃ b c left, Receives (qualified (.count 1) none) 0 b clockEdge left ∧
    b.phase = .opened ∧ b.lane.mode = .serial input ∧ input.clock = { line := clockEdge.line, edge := clockEdge.kind } ∧
    (∀ q, input.qualifier = some q → ((qualified (.count 1) none).probes[q.line]).level = q.high) ∧
    c = b.takeSample [false] ∧ c.countClose = some .stop ∧ ClosesEarly (qualified (.count 1) none) 0 0 :=
  ⟨_, _, _, ⟨rfl, [], [], rfl, by simp, rfl⟩, rfl, rfl, rfl, by
    intro q h
    obtain rfl : q = { line := 2, high := true } := by simpa [input] using h.symm
    rfl, rfl, rfl, rfl, _, hostLane, 1, rfl, rfl, by decide, rfl⟩

/-- CU0 ARMED with start kind HOST. -/
def waiting : State := pair (bound .armed { lane with start := .host } fixed14) .opened

theorem witness_MarkStartOpensHostWindows : Takes (ask 0x15 [0xFF, 0] waiting) (req 0x15 [0xFF, 0]) [] ∧
    waiting.seq.plan ≠ .idle ∧ waiting.seq.plan ≠ .paused ∧ Takes (ask 0x15 [1, 2] quiet) (req 0x15 [1, 2]) [] ∧
    1 < (2 : Byte).toNat ∧ Takes (ask 0x15 [] quiet) (req 0x15 []) [] ∧ quiet.seq.plan = .idle :=
  ⟨takes_pair _ _ _ _, by decide, by decide, takes_quiet _ _, by decide, takes_quiet _ _, rfl⟩

/-- CU0 takes the MARK and lane 2, on CU1, stays without a report. -/
theorem witness_MarkStopClosesHostWindows : Takes (ask 0x15 [1, 1] waiting) (req 0x15 [1, 1]) [] ∧
    waiting.seq.plan = .capturing ∧ waiting.seq.stepCopy.map (fun r => r.lanes[1]?) = some (some hostLane) ∧
    waiting.seq.reports[1] = none ∧ (1 : Byte).getLsbD hostLane.unit.val = false ∧
    Takes (ask 0x15 [1, 1] quiet) (req 0x15 [1, 1]) [] :=
  ⟨takes_pair _ _ _ _, rfl, rfl, rfl, by decide, takes_quiet _ _⟩

/-- 232 bytes, the most that FEED carries, to an OPEN HOST lane that no bit closes; a unit code of 8; an IDLE unit. -/
theorem witness_FeedFoldsBytes : ∃ b, Takes (ask 0x16 (1 :: 0 :: List.replicate 232 0) waiting)
      (req 0x16 (1 :: 0 :: List.replicate 232 0)) [] ∧ (List.replicate 232 (0 : Byte)).length ≤ 232 ∧
    waiting.seq.plan = .capturing ∧ waiting.units[1] = some b ∧ b.phase = .opened ∧ b.lane.mode = .host ∧
    (∀ bits : List Bool, ¬(bits.foldl sampledBit b).reached) ∧ (0 : Byte).getLsbD 0 = false ∧
    8 ≤ (8 : Byte).toNat ∧ quiet.units[1] = none :=
  ⟨_, takes_pair _ _ _ _, by decide +kernel, rfl, rfl, rfl, rfl, by
    intro bits h
    simp only [Bound.reached, sampledBits_lane] at h
    exact h.elim nofun nofun, by decide, by decide, rfl⟩

/-- CU1 of `fed`, with another stop. -/
def feeding (k : StopKind) (limit : Option Nat) : Bound :=
  { bound .opened { hostLane with profile := 2, stop := k, sampleLimit := limit } (tiny .left .msbFirst) with
    samples := 8, transitions := 5, previous := some [false], residue := 0xD }

/-- The second FEED of spec/03 3.10.3: bit 5 of 16 reaches the stop count, and a sample limit of 13 too; after bit 16
nothing is reached and FINAL closes. -/
theorem witness_FeedFoldsBytes_closes (bits : List Bool) (h : bits = bitsOf .msbFirst [0xB4, 0xFF]) :
    FeedCloses (feeding (.count 13) none) bits true 5 ((bits.take 5).foldl sampledBit (feeding (.count 13) none)) .stop ∧
    FeedCloses (feeding .host (some 13)) bits false 5 ((bits.take 5).foldl sampledBit (feeding .host (some 13))) .limit ∧
    FeedCloses (feeding .host none) bits true 16 ((bits.take 16).foldl sampledBit (feeding .host none)) .stop ∧
    fed.units[1] = some (feeding (.count 13) none) ∧ ClosesEarly fed 1 1 := by
  subst h
  refine ⟨⟨by decide, rfl, ?_, .inl ⟨by decide, .inl (by decide +kernel), by decide +kernel⟩⟩,
    ⟨by decide, rfl, ?_, .inl ⟨by decide, .inr (by decide +kernel), by decide +kernel⟩⟩,
    ⟨by decide, rfl, ?_, .inr ⟨by decide, ?_, rfl, rfl⟩⟩, rfl, ⟨rfl, _, lane, 0, rfl, rfl, by decide, rfl⟩⟩
  · intro m h1 h2
    interval_cases m <;> exact not_or.mpr ⟨by decide +kernel, by decide +kernel⟩
  · intro m h1 h2
    interval_cases m <;> exact not_or.mpr ⟨by decide +kernel, by decide +kernel⟩
  · intro m _ _ h
    simp only [Bound.reached, sampledBits_lane] at h
    exact h.elim nofun nofun
  · rintro ⟨-, h⟩
    simp only [Bound.reached, sampledBits_lane] at h
    exact h.elim nofun nofun

/-! #### The last close of a step -/

/-- A check of `ClosesLast` that runs. -/
def lastCheck (s : State) (r : StepRecord) (why : Fin 8 → Option CloseReason) : Bool :=
  decide (r.lanes.length ≤ 8) && decide ((r.lanes.map (·.unit)).Nodup) &&
    decide (∀ j : Fin 8, ∀ l ∈ r.lanes[j.val]?, s.seq.reports[j] = none ↔ why l.unit ≠ none) &&
    decide (∀ u : Fin 8, why u ≠ none → ∃ l ∈ r.lanes, l.unit = u) && decide (∃ u : Fin 8, why u ≠ none)

theorem closesLast_of_check {s : State} {r : StepRecord} {why : Fin 8 → Option CloseReason}
    (hr : s.seq.stepCopy = some r) (h : lastCheck s r why = true) : ClosesLast s r why := by
  simp only [lastCheck, Bool.and_eq_true, decide_eq_true_eq] at h
  exact ⟨hr, h.1.1.1.1, h.1.1.1.2, fun j l hl => h.1.1.2 j l hl, h.1.2, h.2⟩

/-- Lanes on CU0 ARMED, CU1 OPEN and CU2 CLOSED with its report, with `k` records held. -/
def mixed (k : Nat) : State :=
  let l2 := { hostLane with unit := 2 }
  let s := withUnit 2 (bound .closed l2 fixed14) (pair (bound .armed lane fixed14) .opened)
  { s with
    queue := queueOf 100 k
    seq := { s.seq with stepCopy := some (stepOf [lane, hostLane, l2]), stepTimerAt := some (millis 20)
                        reports := s.seq.reports.set 2 (some { report with unit := 2 }) } }

/-- `pair` with CU1 CLOSED and its report taken, so that CU0 closes last. -/
def lastUnit (b : Bound) : State :=
  let s := pair b .closed
  { s with seq := { s.seq with reports := s.seq.reports.set 1 (some { report with unit := 1 }) } }

/-- Both lanes of stop kind HOST: MARK STOP closes CU0 and CU1. -/
def marking : State := pair (bound .opened { lane with stop := .host } fixed14) .opened

/-- `fed` with the report of CU0 taken, so that CU1 closes last. -/
def fedLast : State := { fed with seq := { fed.seq with reports := fed.seq.reports.set 0 (some report) } }

/-! #### The plan -/

theorem witness_RunStartsLowestDefinedStep : Takes (ask 0x11 [10, 95, 0, 0] (planned .idle [hostLane]))
      (req 0x11 [10, 95, 0, 0]) [] ∧ (planned .idle [hostLane]).seq.plan = .idle ∧
    (planned .idle [hostLane]).steps[10] = some (stepOf [hostLane]) ∧
    (stepOf [hostLane]).wellFormed (planned .idle [hostLane]).widthAt = true ∧
    (∀ n : Fin 96, 0 ≤ n.val → n.val ≤ 9 → (planned .idle [hostLane]).steps[n] = none) ∧
    Takes (ask 0x11 [0, 9, 0, 0] (planned .idle [hostLane])) (req 0x11 [0, 9, 0, 0]) [] ∧
    Takes (ask 0x11 [0, 96, 0, 0] quiet) (req 0x11 [0, 96, 0, 0]) [] ∧ 95 < (96 : Byte).toNat :=
  ⟨takes_planned _ _ _ _, rfl, by decide +kernel, by decide +kernel, by decide +kernel, takes_planned _ _ _ _,
    takes_quiet _ _, by decide⟩

/-- A tick before the settle time and at it; a well-formed step copy. -/
theorem witness_TimersCarryStepOn : settling.seq.plan = .settling ∧ settling.seq.settleEndAt = some (micros 500) ∧
    settling.seq.stepCopy = some (stepOf [hostLane]) ∧ (stepOf [hostLane]).wellFormed settling.widthAt = true ∧
    max settling.now (micros 500 - 1) < micros 500 ∧ micros 500 ≤ max settling.now (micros 500) := by decide +kernel

/-- 62 records leave no room for three, and 61 do; a tick before the expiry and at it; nothing in flight, a frame in
flight. -/
theorem witness_TimersCarryStepOn_expiry : (mixed 61).seq.plan = .capturing ∧ (mixed 61).seq.stepTimerAt = some (millis 20) ∧
    (∃ r, ClosesLast (mixed 61) r fun u => ((mixed 61).units[u]).bind fun b =>
      if b.phase = .armed then some .noStart else if b.phase = .opened then some .timeLimit else none) ∧
    max (mixed 61).now (millis 20 - 1) < millis 20 ∧ millis 20 ≤ max (mixed 61).now (millis 20) ∧
    64 < (mixed 62).queue.records.length + 3 ∧ ¬64 < (mixed 61).queue.records.length + 3 ∧
    (mixed 61).tx.inFlight = none ∧ ({ mixed 61 with tx := State.reset.tx } : State).tx.inFlight ≠ none ∧
    (mixed 61).flags[0].source ≠ .window :=
  ⟨rfl, rfl, ⟨_, closesLast_of_check rfl (by decide +kernel)⟩, by decide, by decide, by decide +kernel, by decide +kernel,
    rfl, nofun, by decide⟩

/-- A report with STOP and one without; criteria present and absent; the ends of a count range. -/
theorem witness_VerdictsFollowCriteria : report.reason = .stop ∧ { report with reason := CloseReason.limit }.reason ≠ .stop ∧
    lane.expectedResidue = none ∧ lane.expectedCount = none ∧
    ({ lane with expectedCount := some { min := 5, max := 5 } } : Lane).expectedCount ≠ none ∧ 5 ≤ report.samples ∧
    report.samples ≤ 5 := by decide

theorem witness_StepEndPostsAllOrHolds (k : Nat) : (ended k).seq.stepCopy = some (stepOf [lane]) ∧
    1 ≤ (stepOf [lane]).lanes.length ∧ (stepOf [lane]).lanes.length ≤ 8 ∧
    (∀ j : Fin 8, j.val < (stepOf [lane]).lanes.length → (ended k).seq.reports[j] ≠ none) ∧
    (ended k).steps[(ended k).seq.step] ≠ none ∧ (ended k).queue.records.length = k :=
  ⟨rfl, by decide, by decide, by
    intro j hj
    obtain rfl : j = 0 := Fin.ext (by simpa [stepOf] using hj)
    simp [ended], nofun, by simp [ended, timing, queueOf]⟩

/-- A post to an empty queue, and one with a notice pending. -/
theorem witness_StepEndPostsAllOrHolds_notice : (ended 0).queue.records.length = 0 ∧ (ended 0).interp.mask.results = true ∧
    ({ (ended 9).tx with results := some { held := 9, oldest := 91, newest := 99, count := 1 } } : Transmitter).results ≠ none :=
  ⟨by decide +kernel, rfl, nofun⟩

/-- The last close by the stop edge and by the stop count, by a MARK STOP of two units, and by a FEED. -/
theorem witness_StepEndPostsAllOrHolds_lastCloses (k : StopKind) (limit : Option Nat) :
    (∃ left r, Receives (lastUnit (stopping k limit)) 0 (stopping k limit) clockEdge left ∧
      ClosesLast (lastUnit (stopping k limit)) r (onlyUnit 0 .stop) ∧
      ClosesLast (lastUnit (stopping k limit)) r (onlyUnit 0 .limit)) ∧
    (Takes (ask 0x15 [3, 1] marking) (req 0x15 [3, 1]) [] ∧ ∃ r, ClosesLast (ask 0x15 [3, 1] marking) r fun u =>
      if (3 : Byte).getLsbD u.val = true ∧
        ((ask 0x15 [3, 1] marking).units[u]).any (fun b => decide (b.phase = .opened ∧ b.lane.stop = .host)) = true
      then some .stop else none) ∧
    (Takes (ask 0x16 [1, 1, 0xB4, 0xFF] fedLast) (req 0x16 [1, 1, 0xB4, 0xFF]) [] ∧
      fedLast.units[1] = some (feeding (.count 13) none) ∧ ∃ r, ClosesLast fedLast r (onlyUnit 1 .stop)) :=
  ⟨⟨_, stepOf [(stopping k limit).lane, hostLane], ⟨rfl, [], [], rfl, by simp, rfl⟩, closesLast_of_check rfl rfl,
      closesLast_of_check rfl rfl⟩,
    ⟨takes_pair _ _ _ _, _, closesLast_of_check rfl (by decide +kernel)⟩,
    ⟨takes_ask _ _ _ (by rfl), rfl, _, closesLast_of_check rfl (by decide +kernel)⟩⟩

/-- Attempts 0 and 1 below the retry limit 2, attempt 2 at it; the last step of the last pass and of a pass before. -/
theorem witness_BoundaryChoosesByVerdict : (planned .capturing [lane]).seq.stepCopy = some (stepOf [lane]) ∧
    (stepOf [lane]).onFail = .retry 2 .halt ∧ (planned .capturing [lane]).seq.attempt < 2 ∧
    (∀ n : Fin 96, (planned .capturing [lane]).seq.step < n → n ≤ (planned .capturing [lane]).seq.runLast →
      (planned .capturing [lane]).steps[n] = none) ∧
    (planned .capturing [lane]).seq.loopCount ≠ 0 ∧
    (planned .capturing [lane]).seq.loopCount ≤ (planned .capturing [lane]).seq.iteration + 1 ∧
    (planned .capturing [lane]).seq.runFirst = 10 ∧ (planned .capturing [lane]).steps[10] ≠ none := by decide +kernel

/-- A boundary that ends the run, and one that starts a well-formed record. -/
theorem witness_BoundaryChoosesByVerdict_carriedOut :
    (planned .capturing [lane]).boundaryChoice .pass = .runEnd .done ∧
    (planned .capturing [lane]).boundaryChoice .fail = .start 10 1 0 ∧
    (planned .capturing [lane]).seq.pausePending = false ∧
    ({ (planned .capturing [lane]).seq with pausePending := true } : Sequencer).pausePending = true ∧
    (planned .capturing [lane]).steps[10] = some (stepOf [lane]) ∧
    (stepOf [lane]).wellFormed (planned .capturing [lane]).widthAt = true := by decide +kernel

theorem witness_PauseAndResumeByPlanState : Takes (ask 0x12 [] settling) (req 0x12 []) [] ∧
    settling.seq.plan ≠ .idle ∧ settling.seq.plan ≠ .paused ∧ settling.seq.pausePending = false ∧
    Takes (ask 0x13 [] (planned .paused [hostLane])) (req 0x13 []) [] ∧
    (planned .paused [hostLane]).steps[(planned .paused [hostLane]).seq.step] = some (stepOf [hostLane]) ∧
    (stepOf [hostLane]).wellFormed (planned .paused [hostLane]).widthAt = true :=
  ⟨takes_settling _ _, by decide, by decide, rfl, takes_planned _ _ _ _, by decide +kernel, by decide +kernel⟩

theorem witness_AbortEndsRun : Takes (ask 0x14 [] settling) (req 0x14 []) [] ∧ settling.seq.plan ≠ .idle ∧
    Takes (ask 0x14 [] quiet) (req 0x14 []) [] ∧ quiet.seq.plan = .idle ∧ Takes (ask 0x14 [0] quiet) (req 0x14 [0]) [] :=
  ⟨takes_settling _ _, by decide, takes_quiet _ _, rfl, takes_quiet _ _⟩

theorem witness_StatusReportsPlanAndQueue : Takes (ask 2 [] settling) (req 2 []) [] ∧
    Takes (ask 2 [0] quiet) (req 2 [0]) [] := ⟨takes_settling _ _, takes_quiet _ _⟩

theorem witness_PlanResetClearsRunAndQueue : Takes (ask 4 [0] settling) (req 4 [0]) [] ∧ settling.seq.plan ≠ .idle ∧
    Takes (ask 4 [0] quiet) (req 4 [0]) [] ∧ quiet.seq.plan = .idle ∧ Takes (ask 4 [2] quiet) (req 4 [2]) [] ∧
    1 < (2 : Byte).toNat := ⟨takes_settling _ _, by decide, takes_quiet _ _, rfl, takes_quiet _ _, by decide⟩

/-! #### The Result Queue -/

/-- A quiet part with `k` records, N = 2. -/
def holding (k : Nat) : State := { quiet with queue := queueOf 2 k }

theorem takes_holding (k : Byte) (p : List Byte) (n : Nat) : Takes (ask k p (holding n)) (req k p) [] :=
  takes_ask _ k p (by rfl)

/-- Maxima 1 and 7, the ends of their range, and starts at the ends of the records held. -/
theorem witness_ReadResultsReturnsRecords : Takes (ask 9 [1] (holding 9)) (req 9 [1]) [] ∧
    Takes (ask 9 [7, 1, 0] (holding 9)) (req 9 [7, 1, 0]) [] ∧ Takes (ask 9 [8] (holding 9)) (req 9 [8]) [] ∧
    ((holding 9).queue.next - 1 - BitVec.ofNat 16 1).toNat = 0 ∧
    ((holding 9).queue.next - 1 - BitVec.ofNat 16 65529).toNat = 8 ∧
    ((holding 9).queue.next - 1 - BitVec.ofNat 16 65528).toNat = 9 :=
  ⟨takes_holding _ _ _, takes_holding _ _ _, takes_holding _ _ _, by decide, by decide, by decide⟩

/-- Distances 8 (held), 9 and 32767 (behind) and 32768 (ahead) of nine records. -/
theorem witness_AckResultsRemovesThrough : Takes (ask 0x0A [0xF9, 0xFF] (holding 9)) (req 0x0A [0xF9, 0xFF]) [] ∧
    ((holding 9).queue.next - 1 - BitVec.ofNat 16 (0xF9 + 256 * 0xFF)).toNat = 8 ∧
    ((holding 9).queue.next - 1 - BitVec.ofNat 16 (0xF8 + 256 * 0xFF)).toNat = 9 ∧
    ((holding 9).queue.next - 1 - BitVec.ofNat 16 (0x02 + 256 * 0x80)).toNat = 32767 ∧
    ((holding 9).queue.next - 1 - BitVec.ofNat 16 (0x01 + 256 * 0x80)).toNat = 32768 ∧
    (holding 9).queue.records.length = 9 ∧ (holding 9).seq.plan ≠ .held :=
  ⟨takes_holding _ _ _, by decide, by decide, by decide, by decide, by decide, by decide⟩

theorem witness_AckResultsRemovesThrough_held : Takes (ask 0x0A [99, 0] held) (req 0x0A [99, 0]) [] ∧
    (held.queue.next - 1 - BitVec.ofNat 16 99).toNat = 0 ∧ held.queue.records.length = 64 ∧ held.seq.plan = .held ∧
    held.seq.heldVerdict = some .pass ∧ held.seq.stepCopy = some (stepOf [lane]) ∧
    (∀ j : Fin 8, j.val < (stepOf [lane]).lanes.length → held.seq.reports[j] ≠ none) ∧
    held.steps[held.seq.step] ≠ none :=
  ⟨takes_ask _ _ _ (by rfl), by decide +kernel, by decide +kernel, rfl, rfl, rfl, by
    intro j hj
    obtain rfl : j = 0 := Fin.ext (by simpa [stepOf] using hj)
    simp [held, ended], nofun⟩

/-- Two lanes HELD: sequence 36 is at distance 63, so that one record goes and there is no room for two. -/
def heldPair : State :=
  let s := planned .held [lane, hostLane]
  { s with
    queue := queueOf 100 64
    seq := { s.seq with heldVerdict := some .pass, reports := #v[some report, some report, none, none, none, none, none, none] } }

theorem witness_AckResultsRemovesThrough_stillHeld : Takes (ask 0x0A [36, 0] heldPair) (req 0x0A [36, 0]) [] ∧
    (heldPair.queue.next - 1 - BitVec.ofNat 16 36).toNat = 63 ∧ heldPair.queue.records.length = 64 ∧ 64 < 63 + 2 ∧
    heldPair.seq.plan = .held ∧ heldPair.seq.heldVerdict = some .pass ∧
    heldPair.seq.stepCopy = some (stepOf [lane, hostLane]) ∧
    (∀ j : Fin 8, j.val < 2 → heldPair.seq.reports[j] ≠ none) ∧ heldPair.steps[heldPair.seq.step] ≠ none :=
  ⟨takes_ask _ _ _ (by rfl), by decide +kernel, by decide +kernel, by decide, rfl, rfl, rfl, by decide +kernel, nofun⟩

/-! #### Flag lines -/

/-- A line with a change of target that waits, and a hold a tick before and at its end. -/
theorem witness_StretcherFollowsTarget : quiet.flags[2].changes = [] ∧
    ({ FlagLine.afterReset with changes := [true] } : FlagLine).changes = [true] ∧
    (failLine none (some 100) true).flags[2].holdEnd = some 100 ∧
    max (failLine none (some 100) true).now 99 < 100 ∧ 100 ≤ max (failLine none (some 100) true).now 100 := by
  decide +kernel

theorem witness_PulsesRunFromTriggerToEnd : (failLine (some 100) none true).flags[2].pulseEnd = some 100 ∧
    (failLine (some 100) none true).flags[2].source = .fail ∧
    ({ (failLine (some 100) none true).flags[2] with changes := [true] } : FlagLine).changes = [true] ∧
    max (failLine (some 100) none true).now 99 < 100 ∧ 100 ≤ max (failLine (some 100) none true).now 100 ∧
    quiet.flags[0].pulseEnd = none := by decide +kernel

/-- Sources 7 and 8, at the end of their range. A line that keeps its source while changes wait, one that takes another,
and PATTERN in IDLE with changes that wait. -/
theorem witness_SetFlagConfiguresLines : (showing [false, true] quiet).flags[0].source = .window ∧
    [FlagSource.host, .pattern, .active, .window, .stepEnd, .fail, .pending, .held][(3 : Byte).toNat]? = some .window ∧
    [FlagSource.host, .pattern, .active, .window, .stepEnd, .fail, .pending, .held][(1 : Byte).toNat]? = some .pattern ∧
    quiet.seq.plan = .idle ∧ ((patternLine [true, false]).flags[0]).source = .pattern ∧
    (patternLine [true, false]).seq.plan = .idle ∧ Takes (ask 0x17 [0xF, 7, 3, 0xFF, 0xFF] quiet) (req 0x17 [0xF, 7, 3, 0xFF, 0xFF]) [] ∧
    [FlagSource.host, .pattern, .active, .window, .stepEnd, .fail, .pending, .held][(7 : Byte).toNat]? = some .held ∧
    Takes (ask 0x17 [0xF, 8, 3, 0xFF, 0xFF] quiet) (req 0x17 [0xF, 8, 3, 0xFF, 0xFF]) [] ∧ 7 < (8 : Byte).toNat :=
  ⟨rfl, rfl, rfl, rfl, rfl, rfl, takes_quiet _ _, rfl, takes_quiet _ _, by decide⟩

theorem witness_DriveFlagsSetsHostLevels : Takes (ask 0x18 [0xF, 5] quiet) (req 0x18 [0xF, 5]) [] ∧
    Takes (ask 0x18 [0xF] quiet) (req 0x18 [0xF]) [] := ⟨takes_quiet _ _, takes_quiet _ _⟩

/-- A hold that runs on, a line without one whose output changes, and a PATTERN line in IDLE whose waiting change is
handled before a SET FLAG that sets W to 0. -/
theorem witness_OutputsKeepMinimumWidth :
    (∃ s', exec (.gap 99) (failLine none (some 100) true) = .next s' ∧ ¬resetsFlags (.gap 99) (failLine none (some 100) true) ∧
      (failLine none (some 100) true).flags[2].holdEnd = some 100 ∧ s'.now < 100) ∧
    (∃ s', exec (.driveFlags 0) (ask 0x18 [1, 1] quiet) = .next s' ∧
      ¬resetsFlags (.driveFlags 0) (ask 0x18 [1, 1] quiet) ∧
      (s'.flags[0]).output ≠ ((ask 0x18 [1, 1] quiet).flags[0]).output) ∧
    ∃ s', exec (.setFlag 0) (ask 0x17 [1, 1, 0, 0, 0] (patternLine [true, false])) = .next s' ∧
      ¬resetsFlags (.setFlag 0) (ask 0x17 [1, 1, 0, 0, 0] (patternLine [true, false])) ∧
      (s'.flags[0]).output ≠ ((patternLine [true, false]).flags[0]).output ∧ (s'.flags[0]).width = 0 ∧
      (s'.flags[0]).holdEnd = some (micros 50) :=
  ⟨⟨_, rfl, id, by decide +kernel, by decide +kernel⟩, ⟨_, rfl, id, by decide +kernel⟩, _, rfl, id, by decide +kernel,
    by decide +kernel, by decide +kernel⟩

/-! #### The link -/

/-- RXD high with no character; the low of a dropped character; a partial frame a tick before the gap limit and at it. -/
theorem witness_CharactersAndGaps : quiet.nResetLow = false ∧ quiet.rx.character = none ∧ quiet.rx.low = .untimed ∧
    ({ quiet.rx with low := .dropped 5 } : Receiver).low = .dropped 5 ∧ RxState.header [] 0xFFFF ≠ .hunt ∧ max 0 (5 + millis 25 - 1) < 5 + millis 25 ∧ 5 + millis 25 ≤ max 0 (5 + millis 25) := by
  decide +kernel

/-- LEN 248 and 249, and each state of the receiver with a character in reception. -/
theorem witness_CharacterExtendsFrame (x : RxState) : (receiving x).rx.character ≠ none ∧ (receiving x).rx.state = x ∧
    248 < (249 : Byte).toNat ∧ (248 : Byte).toNat ≤ 248 := ⟨nofun, rfl, by decide, by decide⟩

/-- A header of KIND `k` whose payload is read, with the low check byte received. -/
def checking (k : Byte) : State := receiving (.check { len := 0, tag := 7, kind := k, ctrl := 0 } [] 0x1234 (some 0x34))

/-- `checking` with `k` requests and `m` refusals that wait. -/
def crowded (kind : Byte) (k m : Nat) : State :=
  { checking kind with
    interp := { (checking kind).interp with requests := List.replicate k (req 1 []) }
    tx := { (checking kind).tx with
      queue := List.replicate m { frame := mkFrame 1 0x81 [0x10, 0], role := .refusal, attached := .nothing } } }

/-- The check that agrees and one that does not; KINDs 0 and 64, 1 and 63; three and four requests; one and two
refusals that wait. -/
theorem witness_LastCheckByteEndsFrame (k : Byte) (n m : Nat) : (crowded k n m).rx.character ≠ none ∧
    (crowded k n m).rx.state = .check { len := 0, tag := 7, kind := k, ctrl := 0 } [] 0x1234 (some 0x34) ∧
    (0x1234 : Word32).toNat % 65536 = (0x34 : Byte).toNat + 256 * (0x12 : Byte).toNat ∧
    (0x1234 : Word32).toNat % 65536 ≠ (0x34 : Byte).toNat + 256 * (0x13 : Byte).toNat ∧ (0 : Byte).toNat = 0 ∧
    64 ≤ (64 : Byte).toNat ∧ 1 ≤ (1 : Byte).toNat ∧ (63 : Byte).toNat < 64 ∧ (crowded 1 3 0).interp.requests.length < 4 ∧
    4 ≤ (crowded 63 4 1).interp.requests.length ∧ (crowded 63 4 1).refusalsWaiting < 2 ∧
    2 ≤ (crowded 63 4 2).refusalsWaiting :=
  ⟨nofun, rfl, by decide, by decide, by decide, by decide, by decide, by decide, by decide, by decide, by decide, by decide⟩

/-- The request of spec/08 8.9.1, and KIND 63 with the longest payload. -/
theorem witness_WholeFrameIsHandedOn : quiet.rx.state = .hunt ∧ quiet.interp.requests.length < 4 ∧
    (req 0x0A [5, 0]).payload.length ≤ 248 ∧ (req 0x3F (List.replicate 248 0)).payload.length ≤ 248 ∧
    1 ≤ (0x0A : Byte).toNat ∧ (0x3F : Byte).toNat < 64 := by decide +kernel

/-- A low watched, timed or dropped from 5, a tick before 10 ms and at 10 ms. -/
theorem witness_LowLevelsEnd : (receiving .hunt).rx.character ≠ none ∧ 5 ≤ 5 ∧
    ({ quiet.rx with low := .watched 5 } : Receiver).low = .watched 5 ∧
    ({ quiet.rx with low := .dropped 5 } : Receiver).low = .dropped 5 ∧ max 0 (5 + millis 10 - 1) < 5 + millis 10 ∧
    5 + millis 10 ≤ max 0 (5 + millis 10) := by decide +kernel

/-- A break of a timed low and of a dropped character's, with reset pending clear and with it set. The START notice of
450000 ticks in flight: one tick into it, at its start and at the start of its third character. -/
theorem witness_BreakRecoversLink : ({ quiet.rx with low := .timed 5 } : Receiver).low = .timed 5 ∧
    ({ quiet.rx with low := .dropped 5 } : Receiver).low = .dropped 5 ∧
    5 + millis 10 ≤ max quiet.now (5 + millis 10) ∧ quiet.interp.resetPending = false ∧
    owing.interp.resetPending = true ∧ quiet.tx.start = none ∧ quiet.interp.mask.link = true ∧
    quiet.nResetLow = false ∧ State.reset.tx.inFlight = some State.startInFlight ∧
    characterEnds State.startInFlight 1 50000 ∧ characterEnds State.startInFlight 0 0 ∧
    characterEnds State.startInFlight 100000 100000 := by
  have key : State.startInFlight.beganAt = 0 ∧ State.startInFlight.rate.characterTime = 50000 := by decide
  refine ⟨rfl, rfl, by decide, rfl, rfl, rfl, rfl, rfl, rfl, ?_, ?_, ?_⟩ <;>
    simp only [characterEnds, key.1, key.2]
  · exact ⟨⟨1, rfl⟩, by decide, by decide⟩
  · exact ⟨⟨0, rfl⟩, by decide, by decide⟩
  · exact ⟨⟨2, rfl⟩, by decide, by decide⟩

/-- The START notice in flight, a tick before its last bit and at it; a reply with the FULL reset. -/
theorem witness_FrameSentAppliesAttachment : State.reset.tx.inFlight = some State.startInFlight ∧
    max State.reset.now 449999 < 0 + (2 + 7) * LinkRate.b115200.characterTime ∧
    0 + (2 + 7) * LinkRate.b115200.characterTime ≤ max State.reset.now 450000 ∧
    State.startInFlight.attached = .nothing ∧ owing.tx.inFlight.map (·.attached) = some .fullReset := by decide +kernel

/-- The rate in force, and another; a character in reception, and a low watched and timed. -/
theorem witness_FrameSentAppliesAttachment_rate (r : LinkRate) :
    ({ State.startInFlight with attached := .rateSwitch r } : InFlight).attached = .rateSwitch r ∧
    LinkRate.b115200 = quiet.rx.rate ∧ LinkRate.b9600 ≠ quiet.rx.rate ∧
    (receiving .hunt).rx.low = .untimed ∧ (receiving .hunt).rx.character = some { rate := .b115200, since := 0 } ∧
    ({ quiet.rx with low := .watched 5 } : Receiver).low = .watched 5 ∧
    ({ quiet.rx with low := .timed 5 } : Receiver).low = .timed 5 := ⟨rfl, rfl, by decide, rfl, rfl, rfl, rfl⟩

/-- TXD free with nothing pending and each kind of notice pending alone; a busy TXD. -/
theorem witness_ArbiterChoosesByPriority (n : StartNotice) (l : LinkNotice) (p : PlanNotice) (r : ResultsNotice) :
    quiet.nResetLow = false ∧ quiet.tx.inFlight = none ∧ quiet.tx.queue = [] ∧
    quiet.tx.start = none ∧ quiet.tx.link = none ∧ quiet.tx.plan = none ∧ quiet.tx.results = none ∧
    State.reset.tx.inFlight ≠ none ∧ ({ quiet.tx with start := some n } : Transmitter).start = some n ∧
    ({ quiet.tx with link := some l } : Transmitter).link = some l ∧
    ({ quiet.tx with plan := some p } : Transmitter).plan = some p ∧
    ({ quiet.tx with results := some r } : Transmitter).results = some r :=
  ⟨rfl, rfl, rfl, rfl, rfl, rfl, rfl, nofun, rfl, rfl, rfl, rfl⟩

/-- Rate 921600 with gap limits 1 and 250, the ends of the range; gap limits 0 and 251. -/
theorem witness_SetLinkAttachesRateSwitch : Takes (ask 5 [0, 0x10, 0x0E, 0, 1] quiet) (req 5 [0, 0x10, 0x0E, 0, 1]) [] ∧
    ofLeBytes [0, 0x10, 0x0E, 0] = LinkRate.b921600.baud ∧ 1 ≤ (1 : Byte).toNat ∧ (250 : Byte).toNat ≤ 250 ∧
    (0 : Byte).toNat = 0 ∧ 250 < (251 : Byte).toNat ∧
    ofLeBytes [0, 0, 0, 0] ∉ [9600, 19200, 57600, 115200, 230400, 460800, 921600] :=
  ⟨takes_quiet _ _, by decide, by decide, by decide, by decide, by decide, by decide⟩

/-! #### Requests in general and the tables -/

/-- A state that takes nothing, and a RETRY of a cached tag. -/
def retried : State := { owing with
  interp := { owing.interp with resetPending := false, requests := [{ req 4 [1] with ctrl := 1 }] } }

theorem witness_TakingConditionsAndRetry : quiet.interp.requests = [] ∧ owing.interp.resetPending = true ∧
    Instr.hello 0 ∈ takings 0 ∧ retried.interp.requests = { req 4 [1] with ctrl := 1 } :: [] ∧ retried.mayTake = true ∧
    retried.interp.cache.length ≤ 8 ∧ ({ req 4 [1] with ctrl := 1 } : Frame).ctrl.getLsbD 0 = true ∧
    retried.interp.cached 7 = some (mkFrame 7 0x84 [0, 0]) := by decide +kernel

/-- Caches of seven and of eight entries, without the tag and with it. -/
theorem witness_TakingConditionsAndRetry_cache (k : Nat) (c : List CacheEntry)
    (h : c = (List.range k).map fun i => { tag := byteOf i, frame := mkFrame (byteOf i) 0x81 [0, 0] }) :
    c.length = k ∧ (k = 8 → (∃ e ∈ c, e.tag = 7) ∧ ∀ e ∈ c, e.tag ≠ 9) ∧ (k = 7 → ∀ e ∈ c, e.tag ≠ 7) := by
  subst h
  refine ⟨by simp, ?_, ?_⟩ <;> rintro rfl
  · exact ⟨⟨{ tag := byteOf 7, frame := mkFrame (byteOf 7) 0x81 [0, 0] }, by decide +kernel, rfl⟩, by decide +kernel⟩
  · decide +kernel

/-- KINDs 0 and 0x19, at the ends of the codes that name a request. -/
theorem witness_HelloAndUnknownKind : Takes (ask 1 [] settling) (req 1 []) [] ∧ Takes (ask 0 [] quiet) (req 0 []) [] ∧
    Takes (ask 0x19 [] quiet) (req 0x19 []) [] ∧ (req 0 []).kind.toNat = 0 ∧ 0x18 < (req 0x19 []).kind.toNat :=
  ⟨takes_settling _ _, takes_quiet _ _, takes_quiet _ _, by decide, by decide⟩

theorem witness_SetNoticesMasksKinds : Takes (ask 3 [0xFF] quiet) (req 3 [0xFF]) [] ∧
    Takes (ask 3 [] quiet) (req 3 []) [] := ⟨takes_quiet _ _, takes_quiet _ _⟩

theorem witness_FullResetWaitsForItsReply : Takes (ask 4 [1] settling) (req 4 [1]) [] ∧
    Takes (ask 4 [2] quiet) (req 4 [2]) [] ∧ 1 < (2 : Byte).toNat ∧ Takes (ask 4 [] quiet) (req 4 []) [] :=
  ⟨takes_settling _ _, takes_quiet _ _, by decide, takes_quiet _ _⟩

/-- DEFINE PROFILE of slot 13 with width 4, accepted; slot 2 while a lane names it; slots 14 and 16 otherwise. -/
theorem witness_ProfileSlotsDefinedAndErased :
    Takes (ask 0x0B ([13, 4] ++ leBytes 4 3 ++ leBytes 4 15 ++ leBytes 4 15 ++ [1, 1]) quiet)
      (req 0x0B ([13, 4] ++ leBytes 4 3 ++ leBytes 4 15 ++ leBytes 4 15 ++ [1, 1])) [] ∧
    (∀ m : Fin 96, quiet.steps[m] = none) ∧ (planned .idle [lane]).steps[10] = some (stepOf [lane]) ∧
    lane ∈ (stepOf [lane]).lanes ∧ lane.profile.val = 2 ∧
    Takes (ask 0x0D [2] (planned .idle [lane])) (req 0x0D [2]) [] ∧ Takes (ask 0x0D [14] quiet) (req 0x0D [14]) [] ∧
    Takes (ask 0x0D [16] quiet) (req 0x0D [16]) [] ∧ 15 < (16 : Byte).toNat :=
  ⟨takes_quiet _ _, by decide +kernel, by decide +kernel, by decide, rfl, takes_planned _ _ _ _, takes_quiet _ _,
    takes_quiet _ _, by decide⟩

theorem witness_ReadProfileReturnsContents : Takes (ask 0x0C [2] (planned .idle [lane])) (req 0x0C [2]) [] ∧
    (planned .idle [lane]).profiles[2] = some (tiny .left .msbFirst) ∧ quiet.profiles[13] = none ∧
    Takes (ask 0x0C [13] quiet) (req 0x0C [13]) [] ∧ Takes (ask 0x0C [16] quiet) (req 0x0C [16]) [] ∧
    15 < (16 : Byte).toNat := ⟨takes_planned _ _ _ _, rfl, by decide, takes_quiet _ _, takes_quiet _ _, by decide⟩

/-- 240 bytes, the most that COMPUTE carries, and 241; slot 15 and the empty slot 13. -/
theorem witness_ComputeRepliesWithSignature :
    Takes (ask 0x0E (15 :: List.replicate 240 0) quiet) (req 0x0E (15 :: List.replicate 240 0)) [] ∧
    (List.replicate 240 (0 : Byte)).length ≤ 240 ∧ quiet.profileAt 15 = some fixed15 ∧ quiet.profileAt 13 = none ∧
    241 < (req 0x0E (15 :: List.replicate 241 0)).payload.length :=
  ⟨takes_quiet _ _, by decide +kernel, by decide, by decide +kernel, by decide +kernel⟩

/-- The six requests of spec/04 4.6.1 give a record, a header fault and a lane fault; a short payload gives none. -/
theorem witness_DefineStepStoresWholeRecord :
    ((readStepPayload (header ++ lane1 ++ lane2 2 0 0 ++ lane3 5)).map fun x =>
      match checkStep editing.widthAt x with
      | .ok r => decide (r.number = 10)
      | .error _ => false) = some true ∧
    ((readStepPayload (header ++ lane1 ++ lane2 5 0 0 ++ lane3 3)).map fun x =>
      match checkStep editing.widthAt x with
      | .ok _ => false
      | .error e => decide (e = (Status.profileEmpty, 2))) = some true ∧
    readStepPayload [10, 1] = none ∧ editing.seq.plan = .idle ∧ settling.seq.plan ≠ .idle := by decide +kernel

/-- A check of `stepFits` that runs. -/
def lanesCheck : Nat → List Byte → Bool
  | 0, b => decide (b = [])
  | n + 1, b => decide (laneLength b ≤ b.length) && lanesCheck n (b.drop (laneLength b))

theorem lanesFit_iff (n : Nat) (b : List Byte) : lanesFit n b ↔ lanesCheck n b = true := by
  induction n generalizing b with
  | zero => simp [lanesFit, lanesCheck]
  | succ n ih => simp [lanesFit, lanesCheck, ih]

/-- The bytes of the accepted request of spec/04 4.6.1 have their declared length; without the last byte, with one
more, and as a header of seven bytes they have not. -/
theorem witness_DefineStepStoresWholeRecord_length (p : List Byte) (h : p = header ++ lane1 ++ lane2 2 0 0 ++ lane3 5) :
    stepFits p ∧ ¬stepFits p.dropLast ∧ ¬stepFits (p ++ [0]) ∧ ¬stepFits (p.take 7) := by
  subst h
  simp only [stepFits, lanesFit_iff]
  decide +kernel

theorem witness_DefineStepStoresWholeRecord_takes (p : List Byte) :
    Takes (ask 6 p editing) (req 6 p) [] ∧ Takes (ask 6 p settling) (req 6 p) [] :=
  ⟨takes_ask _ _ _ (by rfl), takes_settling _ _⟩

/-- A header fault: a lane count of 0 and one of 9. A lane fault in lane 2 after a lane that passes. -/
theorem witness_DefineStepStoresWholeRecord_checks :
    ((readStepPayload (header ++ lane1 ++ lane2 5 0 0 ++ lane3 3)).map fun x =>
      decide (x.number < 96) && decide (1 ≤ x.laneCount) && decide (x.laneCount ≤ 8) && (patternField x).isSome &&
        (onFailOf x).isSome &&
        match checkLanes editing.widthAt 1 [] (x.lanes.take 1), x.lanes[1]? with
        | .ok before, some l =>
          match checkLane editing.widthAt (before.map (·.unit)) l with
          | .error st => decide (st = .profileEmpty)
          | .ok _ => false
        | _, _ => false) = some true ∧
    ((readStepPayload [10, 0, 0, 0, 0, 0, 0, 0]).map (·.laneCount)) = some 0 := by decide +kernel

/-- The bytes of `lane` under width 4, with an expected residue. -/
def rawLane (x : Nat) : RawLane :=
  { unit := 0, mode := 0, startKind := 1, slot := 2, stopKind := 1, data := some 2, clock := some 0, qualifier := some 0x22,
    startLine := some 0, stopParam := some 5, sampleLimit := none, expectedResidue := some x, countMin := none,
    countMax := none }

/-- Residue 15 of width 4 is no fault and 16 is one; an empty slot, a unit named twice, slot 16 and unit 8. -/
theorem witness_DefineStepStoresWholeRecord_lanes : ¬LaneFault 4 (rawLane 15) ∧ LaneFault 4 (rawLane 16) ∧
    editing.widthAt 2 = some 8 ∧ editing.widthAt 5 = none ∧ (0 : Fin 8) ∈ [(0 : Fin 8)] ∧ (0 : Fin 8) ∉ [(1 : Fin 8)] ∧
    15 < ({ rawLane 0 with slot := 16 } : RawLane).slot ∧ 7 < ({ rawLane 0 with unit := 8 } : RawLane).unit := by
  refine ⟨?_, .residue 16 rfl (by decide), by decide +kernel, by decide +kernel, by decide, by decide, by decide, by decide⟩
  intro h
  cases h <;> simp_all [rawLane, senseFault, linesNamed] <;> subst_vars <;> contradiction

theorem witness_StepRecordRoundTrip : (stepOf [lane, hostLane]).wellFormed (planned .idle [lane]).widthAt = true := by
  decide +kernel

/-- Steps 10 (defined), 95 (empty) and 96; ranges 0 to 95, 11 to 10 and 0 to 96. -/
theorem witness_StepSlotsReadAndErased : Takes (ask 7 [10] (planned .idle [lane])) (req 7 [10]) [] ∧
    (planned .idle [lane]).steps[10] = some (stepOf [lane]) ∧ (planned .idle [lane]).steps[95] = none ∧
    95 < (96 : Byte).toNat ∧ Takes (ask 8 [0, 95] (planned .idle [lane])) (req 8 [0, 95]) [] ∧
    (0 : Byte).toNat ≤ (95 : Byte).toNat ∧ (10 : Byte).toNat < (11 : Byte).toNat ∧
    Takes (ask 8 [0, 95] settling) (req 8 [0, 95]) [] ∧ settling.seq.plan ≠ .idle :=
  ⟨takes_planned _ _ _ _, by decide +kernel, by decide +kernel, by decide, takes_planned _ _ _ _, by decide, by decide,
    takes_settling _ _, by decide⟩

end Sys2Proof.Machine.Tests
end

section
/-! Serial folds stage by stage (spec/01 R5). -/

namespace Sys2Proof.Machine

/-- The mask keeps exactly the stages of a register of at most 32 bits (R2). -/
theorem widthMask_getLsbD {w : Nat} (hw : w ≤ 32) (j : Nat) : (widthMask w).getLsbD j = decide (j < w) := by
  rw [widthMask, BitVec.getLsbD_ofNat, Nat.testBit_two_pow_sub_one, ← Bool.decide_and, decide_eq_decide]
  omega

/-- A word below 2^w has no bit at or above place w (R2). -/
theorem getLsbD_eq_false_of_fits {x : Word32} {w j : Nat} (hx : x.toNat < 2 ^ w) (hj : w ≤ j) : x.getLsbD j = false :=
  Nat.testBit_lt_two_pow (hx.trans_le (Nat.pow_le_pow_right two_pos hj))

/-- The register of a LEFT fold before feedback: each stage takes the stage below, stage 0 takes 0, and the old top
stage leaves (R5). -/
theorem shiftLeft_and_widthMask_getLsbD (r : Word32) {w : Nat} (hw : w ≤ 32) (j : Nat) :
    ((r <<< 1) &&& widthMask w).getLsbD j = (decide (j < w) && (decide (0 < j) && r.getLsbD (j - 1))) := by
  rw [BitVec.getLsbD_and, BitVec.getLsbD_shiftLeft, widthMask_getLsbD hw]
  by_cases hj : j < w
  · simp [hj, hj.trans_le hw, Nat.pos_iff_ne_zero]
  · simp [hj]

/-- What a well-formed profile says of its polynomial and its width (R2). -/
theorem wellFormed_poly {p : Profile} (h : p.wellFormed = true) :
    1 ≤ p.width ∧ p.width ≤ 32 ∧ p.poly.toNat < 2 ^ p.width ∧ p.poly.getLsbD 0 = true := by
  simp only [Profile.wellFormed, Word32.fits, Bool.and_eq_true, decide_eq_true_eq] at h
  obtain ⟨⟨⟨⟨⟨hmin, hmax⟩, hpoly⟩, hodd⟩, -⟩, -⟩ := h
  exact ⟨by omega, hmax, hpoly, hodd⟩

/-- A stage of a LEFT fold: the stage below, inverted where the feedback bit and the polynomial's bit are 1 (R5). -/
theorem foldLeft_getLsbD {p : Profile} (hw : p.width ≤ 32) (hpoly : p.poly.toNat < 2 ^ p.width) (r : Word32) (d : Bool)
    (j : Nat) :
    (foldLeft p r d).getLsbD j =
      (decide (j < p.width) &&
        ((decide (0 < j) && r.getLsbD (j - 1)) ^^ ((r.getLsbD (p.width - 1) ^^ d) && p.poly.getLsbD j))) := by
  have shifted := shiftLeft_and_widthMask_getLsbD r hw j
  have outside : ¬j < p.width → p.poly.getLsbD j = false := fun hj => getLsbD_eq_false_of_fits hpoly (not_lt.mp hj)
  unfold foldLeft
  cases r.getLsbD (p.width - 1) ^^ d with
  | false => simp [shifted]
  | true =>
    by_cases hj : j < p.width
    · simp [shifted, hj]
    · simp [shifted, hj, outside hj]

/-- Stage 0 of a LEFT fold is the feedback bit, since the polynomial is odd (R2, R5). -/
theorem foldLeft_getLsbD_zero {p : Profile} (h : p.wellFormed = true) (r : Word32) (d : Bool) :
    (foldLeft p r d).getLsbD 0 = (r.getLsbD (p.width - 1) ^^ d) := by
  obtain ⟨hpos, hw, hpoly, hodd⟩ := wellFormed_poly h
  rw [foldLeft_getLsbD hw hpoly, hodd]
  simp [Nat.lt_of_succ_le hpos]

/-- Settles O14: direction LEFT selects `foldLeft`, whose stages are the shifted register's with the polynomial on top. -/
theorem leftFoldByStage : Obligations.LeftFoldByStage := by
  intro p r d hwf hleft _
  obtain ⟨-, hw, hpoly, -⟩ := wellFormed_poly hwf
  have serial : serialFold p r d = foldLeft p r d := by simp [serialFold, hleft]
  rw [serial]
  exact ⟨foldLeft_getLsbD hw hpoly r d, foldLeft_getLsbD_zero hwf r d⟩

end Sys2Proof.Machine
end

section
/-! READ PROFILE and COMPUTE (spec/01 R12, R15, R17): what their rules answer, and that their takings change nothing
but the interpreter and the transmitter. -/

namespace Sys2Proof.Machine

/-! ### A taking that only answers -/

/-- The cache write of the model is the one of spec/09 R159, in every cache. -/
theorem writeCache_cacheWritten (tag : Byte) (g : OutFrame) (before : List CacheEntry) :
    cacheWritten tag g before (writeCache tag g before) := by
  constructor
  · rintro ⟨e, he, htag⟩ hlen
    have shorter : (before.filter fun x => decide (x.tag ≠ tag)).length < before.length :=
      List.length_filter_lt_length_iff_exists.mpr ⟨e, he, by simp [htag]⟩
    have room : (before.filter fun x => decide (x.tag ≠ tag)).length < Config.cacheCapacity := shorter.trans_le hlen
    simp only [writeCache, if_pos room]
  · intro hnew
    have kept : (before.filter fun x => decide (x.tag ≠ tag)) = before :=
      List.filter_eq_self.mpr fun e he => decide_eq_true (hnew e he)
    constructor <;> intro hlen
    · simp only [writeCache, kept, Config.cacheCapacity, if_pos hlen]
    · simp only [writeCache, kept, Config.cacheCapacity]
      simp [hlen]

/-- A request command whose rule leaves the state as it is and attaches nothing only answers. -/
theorem exec_answeredOnly {c : Instr} {s : State} {f : Frame} {rest : List Frame} {row : Frame → Bool}
    {body : List Byte → State → State × Reply} {t : Nat} {r : Reply}
    (hexec : exec c s = .next ((s.advance t).takeRequest row body)) (h : Takes s f rest) (hrow : row f = true)
    (hbody : body f.payload ((s.advance t).popped rest) = ((s.advance t).popped rest, r))
    (hr : r.attached = .nothing) : ∃ s', exec c s = .next s' ∧ answeredOnly f rest r.payload s s' :=
  ⟨_, hexec, State.taking_answeredOnly h hrow hbody rfl hr (writeCache_cacheWritten _ _ _)⟩

/-! ### Slots -/

/-- Slots 0 to 13 hold what the Profile Table holds (R1). -/
theorem State.profileAt_of_host (s : State) {slot : Fin 16} {k : Fin 14} (h : slot.val = k.val) :
    s.profileAt slot = s.profiles[k] := by
  simp [State.profileAt, h]

/-- The profiles that slots hold depend on the Profile Table alone. -/
theorem State.profileAt_congr {a b : State} (h : a.profiles = b.profiles) (slot : Fin 16) :
    a.profileAt slot = b.profileAt slot := by
  simp only [State.profileAt, h]

/-- A request finds the profiles in its slots as they stood before it was taken. -/
@[simp] theorem State.popped_advance_profileAt (s : State) (t : Nat) (rest : List Frame) (slot : Fin 16) :
    ((s.advance t).popped rest).profileAt slot = s.profileAt slot := State.profileAt_congr rfl slot

/-- A slot number above 15 is refused RANGE (R12). -/
theorem withSlot_of_above {b : Byte} (h : 15 < b.toNat) (s : State) (own : Fin 16 → State × Reply) :
    withSlot b s own = (s, .refuse .range) := dif_neg (by omega)

/-- A slot number up to 15 is the slot of that number (R12). -/
theorem withSlot_of_slot {b : Byte} {slot : Fin 16} (h : b.toNat = slot.val) (s : State) (own : Fin 16 → State × Reply) :
    withSlot b s own = own slot := by
  have hb : b.toNat < 16 := h ▸ slot.isLt
  have hslot : (⟨b.toNat, hb⟩ : Fin 16) = slot := Fin.ext h
  rw [withSlot, dif_pos hb, hslot]

/-- A request command that answers from the profile slot its byte `b` names: RANGE above 15, PROFILE_EMPTY of an empty
slot, else an answer made of the slot's contents; nothing else changes (R12). -/
theorem exec_answeredOnly_of_slot {c : Instr} {s : State} {f : Frame} {rest : List Frame} {row : Frame → Bool}
    {body : List Byte → State → State × Reply} {t : Nat} {b : Byte} {answer : Fin 16 → Profile → Reply}
    (hexec : exec c s = .next ((s.advance t).takeRequest row body)) (h : Takes s f rest) (hrow : row f = true)
    (hrule : ∀ x, body f.payload x = withSlot b x fun slot =>
      (x, (x.profileAt slot).elim (.refuse .profileEmpty) (answer slot)))
    (hattached : ∀ slot p, (answer slot p).attached = .nothing) :
    (15 < b.toNat → ∃ s', exec c s = .next s' ∧ answeredOnly f rest [3, 0] s s') ∧
    ∀ slot : Fin 16, b.toNat = slot.val →
      (s.profileAt slot = none → ∃ s', exec c s = .next s' ∧ answeredOnly f rest [8, 0] s s') ∧
      ∀ p, s.profileAt slot = some p →
        ∃ s', exec c s = .next s' ∧ answeredOnly f rest (answer slot p).payload s s' := by
  refine ⟨fun hb => ?_, fun slot hslot => ⟨fun empty => ?_, fun p held => ?_⟩⟩
  · exact exec_answeredOnly (r := .refuse .range) hexec h hrow ((hrule _).trans (withSlot_of_above hb _ _)) rfl
  · refine exec_answeredOnly (r := .refuse .profileEmpty) hexec h hrow ?_ rfl
    rw [hrule, withSlot_of_slot hslot, State.popped_advance_profileAt, empty, Option.elim_none]
  · refine exec_answeredOnly hexec h hrow ?_ (hattached slot p)
    rw [hrule, withSlot_of_slot hslot, State.popped_advance_profileAt, held, Option.elim_some]

/-! ### READ PROFILE -/

/-- A payload of another length than 1 is MALFORMED (R12). -/
theorem readProfile_of_length {payload : List Byte} (h : payload.length ≠ 1) (s : State) :
    readProfile payload s = (s, .refuse .malformed) := by
  unfold readProfile
  split
  · exact absurd rfl h
  · rfl

/-- A payload of one byte is answered from the slot that it names (R12, R15). -/
theorem readProfile_of_slot_number (b : Byte) (s : State) :
    readProfile [b] s = withSlot b s fun slot =>
      (s, (s.profileAt slot).elim (.refuse .profileEmpty) fun p => .okWith (profileBytes slot p)) := by
  unfold readProfile
  refine congrArg (withSlot b s) (funext fun slot => ?_)
  cases s.profileAt slot <;> rfl

/-- The bytes of a profile at the places of spec/10 10.4, after status OK and detail 0. -/
theorem profileBytes_payload {b : Byte} {slot : Fin 16} (h : b.toNat = slot.val) (p : Profile) :
    (Reply.okWith (profileBytes slot p)).payload =
      [0, 0, b, BitVec.ofNat 8 p.width] ++ leBytes 4 p.poly.toNat ++ leBytes 4 p.seed.toNat ++
        leBytes 4 p.finalMask.toNat ++ [if p.direction = .left then 0 else 1,
          if p.byteOrder = .msbFirst then 0 else 1] := by
  have hslot : byteOf slot.val = b := by rw [byteOf, ← h, BitVec.ofNat_toNat, BitVec.setWidth_eq]
  have hdir : byteOf (directionCode p.direction) = if p.direction = .left then 0 else 1 := by
    cases p.direction <;> rfl
  have horder : byteOf (byteOrderCode p.byteOrder) = if p.byteOrder = .msbFirst then 0 else 1 := by
    cases p.byteOrder <;> rfl
  simp only [Reply.payload, Reply.okWith, profileBytes, hslot, hdir, horder]
  rfl

/-- Settles O56, by the length of the payload, the slot number, and what the slot holds. -/
theorem readProfileReturnsContents : Obligations.ReadProfileReturnsContents := by
  intro t s f rest h hkind
  have hrow : Frame.isKind .readProfile f = true := by simp [Frame.isKind, hkind, ReqKind.ofCode]
  refine ⟨fun hlen => exec_answeredOnly (r := .refuse .malformed) rfl h hrow (readProfile_of_length hlen _) rfl, ?_⟩
  intro b hpayload
  obtain ⟨above, slots⟩ := exec_answeredOnly_of_slot (c := .readProfile t) rfl h hrow
    (fun x => (congrArg (readProfile · x) hpayload).trans (readProfile_of_slot_number b x)) fun _ _ => rfl
  refine ⟨above, fun k hk empty => ?_, fun p hp => ?_⟩
  · exact (slots (k.castLE (by decide)) hk).1 ((s.profileAt_of_host rfl).trans empty)
  · obtain ⟨slot, hslot, held⟩ : ∃ slot : Fin 16, b.toNat = slot.val ∧ s.profileAt slot = some p := by
      rcases hp with ⟨k, hk, held⟩ | ⟨rfl, rfl⟩ | ⟨rfl, rfl⟩
      · exact ⟨k.castLE (by decide), hk, (s.profileAt_of_host rfl).trans held⟩
      · exact ⟨14, rfl, rfl⟩
      · exact ⟨15, rfl, rfl⟩
    rw [← profileBytes_payload hslot]
    exact (slots slot hslot).2 p held

/-! ### COMPUTE -/

/-- A payload without data bytes or with more than 240 of them is MALFORMED (R17). -/
theorem computeSignature_of_length {payload : List Byte} (h : payload.length < 2 ∨ 241 < payload.length) (s : State) :
    computeSignature payload s = (s, .refuse .malformed) := by
  cases payload with
  | nil => rfl
  | cons b bytes =>
    have hbytes : (bytes.isEmpty || decide (240 < bytes.length)) = true := by
      simp only [List.length_cons, Bool.or_eq_true, List.isEmpty_iff_length_eq_zero, decide_eq_true_eq] at h ⊢
      omega
    exact if_pos hbytes

/-- A payload with 1 to 240 data bytes is computed from the slot that it names (R12, R17). -/
theorem computeSignature_of_data (b : Byte) {bytes : List Byte} (hmin : 1 ≤ bytes.length) (hmax : bytes.length ≤ 240)
    (s : State) :
    computeSignature (b :: bytes) s = withSlot b s fun slot =>
      (s, (s.profileAt slot).elim (.refuse .profileEmpty) fun p =>
        .okWith (byteOf p.width :: leBytes 4 (signatureOf p bytes).toNat)) := by
  have hbytes : ¬(bytes.isEmpty || decide (240 < bytes.length)) = true := by
    simp only [Bool.or_eq_true, List.isEmpty_iff_length_eq_zero, decide_eq_true_eq]
    omega
  refine (if_neg hbytes).trans (congrArg (withSlot b s) (funext fun slot => ?_))
  cases s.profileAt slot <;> rfl

/-- A signature folds the bits of its bytes one by one from the seed, in the byte order (R9, R10, R17). -/
theorem signatureOf_eq_foldl_bits (p : Profile) (bytes : List Byte) :
    signatureOf p bytes = (bitsOf p.byteOrder bytes).foldl (serialFold p) p.seed ^^^ p.finalMask := by
  rw [← feedOrder_eq, feedOrder, List.foldl_flatMap]
  rfl

/-- Settles O57, by the length of the payload, the slot number, and what the slot holds. -/
theorem computeRepliesWithSignature : Obligations.ComputeRepliesWithSignature := by
  intro t s f rest h hkind
  have hrow : Frame.isKind .compute f = true := by simp [Frame.isKind, hkind, ReqKind.ofCode]
  refine ⟨fun hlen => exec_answeredOnly (r := .refuse .malformed) rfl h hrow (computeSignature_of_length hlen _) rfl, ?_⟩
  intro b bytes hpayload hmin hmax
  obtain ⟨above, slots⟩ := exec_answeredOnly_of_slot (c := .compute t) rfl h hrow
    (fun x => (congrArg (computeSignature · x) hpayload).trans (computeSignature_of_data b hmin hmax x)) fun _ _ => rfl
  refine ⟨above, fun slot hslot => ?_⟩
  obtain ⟨empty, held⟩ := slots slot hslot
  refine ⟨empty, fun p hp => ?_⟩
  have answer := held p hp
  rw [signatureOf_eq_foldl_bits] at answer
  exact answer

end Sys2Proof.Machine
end

section
/-! READ RESULTS (spec/06 R118, R119): the bytes of a result record at the places of spec/10 10.6, the records one
after another in the payload, and what the rule answers. -/

namespace Sys2Proof.Machine

/-! ### Numbers as bytes (spec/10 R175) -/

/-- One byte carries a number modulo 256. -/
@[simp] theorem byteOf_toNat (n : Nat) : (byteOf n).toNat = n % 256 := BitVec.toNat_ofNat n 8

/-- `k` bytes are `k` bytes long. -/
@[simp] theorem leBytes_length (k n : Nat) : (leBytes k n).length = k := by
  induction k generalizing n with
  | zero => rfl
  | succ k ih => simp [leBytes, ih]

/-- `k` bytes carry a number modulo 256^k (R175). -/
theorem ofLeBytes_leBytes (k n : Nat) : ofLeBytes (leBytes k n) = n % 256 ^ k := by
  induction k generalizing n with
  | zero => simp [leBytes, ofLeBytes, Nat.mod_one]
  | succ k ih => rw [leBytes, ofLeBytes, byteOf_toNat, ih, pow_succ', Nat.mod_mul]

/-- Bytes enough for a word carry it whole (R175). -/
theorem ofLeBytes_leBytes_toNat {w k : Nat} (hk : 2 ^ w = 256 ^ k) (x : BitVec w) :
    ofLeBytes (leBytes k x.toNat) = x.toNat := by
  rw [ofLeBytes_leBytes, ← hk, Nat.mod_eq_of_lt x.isLt]

/-- Two bytes carry a number, the lowest-order byte first (R175). -/
theorem ofLeBytes_pair (x0 x1 : Byte) : ofLeBytes [x0, x1] = x0.toNat + 256 * x1.toNat := by
  simp [ofLeBytes]

/-! ### The codes of a result record (spec/10 10.6) -/

/-- A close reason is the one at its code, of four. -/
theorem CloseReason.at_code (r : CloseReason) :
    r.code < 4 ∧ [CloseReason.stop, .limit, .noStart, .timeLimit][r.code]? = some r := by
  cases r <;> decide

/-- A verdict is the one at its code, of four. -/
theorem Verdict.at_code (v : Verdict) :
    v.code < 4 ∧ [Verdict.pass, .fail, .unchecked, .fault][v.code]? = some v := by
  cases v <;> decide

/-- A check result is the one at its code, of three. -/
theorem CheckResult.at_code (c : CheckResult) :
    c.code < 3 ∧ [CheckResult.notApplied, .met, .failed][c.code]? = some c := by
  cases c <;> decide

/-! ### The bytes of a result record (spec/10 10.6) -/

/-- A byte of two numbers, the first below the place of the second: each is read back. -/
theorem byteOf_pair {m a b : Nat} (ha : a < m) (hfits : a + m * b < 256) :
    (byteOf (a + m * b)).toNat % m = a ∧ (byteOf (a + m * b)).toNat / m = b := by
  rw [byteOf_toNat, Nat.mod_eq_of_lt hfits]
  exact ⟨by rw [Nat.add_mul_mod_self_left, Nat.mod_eq_of_lt ha],
    by rw [Nat.add_mul_div_left _ _ (by omega), Nat.div_eq_of_lt ha, Nat.zero_add]⟩

/-- Byte 9 of a record: the close reason, the lane verdict and the step verdict, two bits each. -/
theorem byteOf_verdicts (r : CloseReason) (lane step : Verdict) :
    (byteOf (r.code + 4 * lane.code + 16 * step.code)).toNat % 4 = r.code ∧
    (byteOf (r.code + 4 * lane.code + 16 * step.code)).toNat / 4 % 4 = lane.code ∧
    (byteOf (r.code + 4 * lane.code + 16 * step.code)).toNat / 16 = step.code := by
  have hr := r.at_code.1
  have hlane := lane.at_code.1
  have hstep := step.at_code.1
  rw [byteOf_toNat]
  omega

/-- A record is 31 bytes long. -/
@[simp] theorem ResultRecord.bytes_length (x : ResultRecord) : x.bytes.length = 31 := rfl

/-- The bytes of a record carry each of its fields in its place (spec/10 10.6). -/
theorem ResultRecord.bytes_laidOut (x : ResultRecord) : recordLaidOut x x.bytes := by
  obtain ⟨hunit, hprofile⟩ := byteOf_pair (a := x.unit.val) (b := x.profile.val) x.unit.isLt (by omega)
  obtain ⟨hreason, hlane, hstep⟩ := byteOf_verdicts x.reason x.laneVerdict x.stepVerdict
  obtain ⟨residueBound, residueAt⟩ := x.residueCheck.at_code
  obtain ⟨countBound, countAt⟩ := x.countCheck.at_code
  obtain ⟨hresidue, hcount⟩ := byteOf_pair (m := 4) (a := x.residueCheck.code) (b := x.countCheck.code)
    (by omega) (by omega)
  have hnumber : (byteOf x.step.val).toNat = x.step.val := by
    rw [byteOf_toNat]
    omega
  refine ⟨rfl, ofLeBytes_leBytes_toNat (k := 2) rfl x.sequence, hnumber, ofLeBytes_leBytes_toNat (k := 2) rfl x.label,
    ofLeBytes_leBytes 2 x.iteration, fun hattempt hpos => byteOf_pair (m := 8) (by omega) (by omega), hunit, hprofile,
    (congrArg _ hreason).trans x.reason.at_code.2, (congrArg _ hlane).trans x.laneVerdict.at_code.2,
    (congrArg _ hstep).trans x.stepVerdict.at_code.2, (congrArg _ hresidue).trans residueAt,
    (congrArg _ hcount).trans countAt, ofLeBytes_leBytes_toNat (k := 4) rfl x.residue, ofLeBytes_leBytes 4 x.samples,
    ofLeBytes_leBytes 4 x.transitions, ofLeBytes_leBytes 4 x.stepStart, ofLeBytes_leBytes 4 x.duration⟩

/-! ### Records one after another -/

/-- Records one after another take 31 bytes each. -/
@[simp] theorem recordBytes_length (rs : List ResultRecord) : (recordBytes rs).length = 31 * rs.length := by
  simp [recordBytes, List.length_flatMap, Nat.mul_comm]

/-- Record `j` stands at offset 31 * `j`. -/
theorem recordBytes_at {rs : List ResultRecord} {j : Nat} {x : ResultRecord} (h : rs[j]? = some x) :
    ((recordBytes rs).drop (31 * j)).take 31 = x.bytes := by
  induction rs generalizing j with
  | nil => simp at h
  | cons r rs ih =>
    have split : recordBytes (r :: rs) = r.bytes ++ recordBytes rs := List.flatMap_cons
    cases j with
    | zero =>
      obtain rfl : r = x := by simpa using h
      rw [split, Nat.mul_zero, List.drop_zero, List.take_left' r.bytes_length]
    | succ j =>
      rw [split, Nat.mul_succ, Nat.add_comm, ← List.drop_drop, List.drop_left' r.bytes_length]
      exact ih h

/-- The reply of an accepted READ RESULTS carries the number returned, the count held and the records (R119). -/
theorem resultsReply_carried (q : ResultQueue) (rs : List ResultRecord) :
    resultsCarried q.records.length rs (resultsReply q rs).payload := by
  have shape : (resultsReply q rs).payload =
      [0, 0, byteOf rs.length, byteOf q.records.length] ++ recordBytes rs := rfl
  rw [shape]
  refine ⟨by rw [List.length_append, recordBytes_length]; rfl, rfl, fun j x hx => ?_⟩
  rw [← List.drop_drop, List.drop_left' (i := 4) rfl, recordBytes_at hx]
  exact x.bytes_laidOut

/-! ### The rule of READ RESULTS -/

/-- A payload of another length than 1 and 3 is MALFORMED (R118). -/
theorem readResults_of_length {payload : List Byte} (h1 : payload.length ≠ 1) (h3 : payload.length ≠ 3) (s : State) :
    readResults payload s = (s, .refuse .malformed) := by
  unfold readResults
  split
  · exact absurd rfl h1
  · exact absurd rfl h3
  · rfl

/-- A payload of the maximum, with a start sequence or without one, reads from there (R118). -/
theorem readResults_of_start {m : Byte} {start : List Byte} (h : start.length = 0 ∨ start.length = 2) (s : State) :
    readResults (m :: start) s =
      readFrom m.toNat (if start = [] then none else some (BitVec.ofNat 16 (ofLeBytes start))) s := by
  match start, h with
  | [], _ => rfl
  | [_, _], _ => rfl

/-- A maximum below 1 or above 7 is refused RANGE (R118). -/
theorem readFrom_of_range {most : Nat} (h : most < 1 ∨ 7 < most) (start : Option (BitVec 16)) (s : State) :
    readFrom most start s = (s, .refuse .range) := if_pos h

/-- Without a start sequence the oldest records are returned (R119). -/
theorem readFrom_of_none {most : Nat} (hmin : 1 ≤ most) (hmax : most ≤ 7) (s : State) :
    readFrom most none s = (s, resultsReply s.queue (s.queue.records.take most)) := if_neg (by omega)

/-- A start sequence at a distance that no record has is refused SEQ_ABSENT (R118). -/
theorem readFrom_of_absent {most : Nat} (hmin : 1 ≤ most) (hmax : most ≤ 7) {x : BitVec 16} {s : State}
    (h : s.queue.records.length ≤ s.queue.distance x) : readFrom most (some x) s = (s, .refuse .seqAbsent) :=
  (if_neg (by omega)).trans (if_neg (by omega))

/-- From a start sequence whose record is held, the records from that one on are returned (R119). -/
theorem readFrom_of_held {most : Nat} (hmin : 1 ≤ most) (hmax : most ≤ 7) {x : BitVec 16} {s : State}
    (h : s.queue.distance x < s.queue.records.length) :
    readFrom most (some x) s = (s, resultsReply s.queue (s.queue.readFrom (s.queue.distance x) most)) :=
  (if_neg (by omega)).trans (if_pos h)

/-- Settles O35, by the length of the payload, the maximum, and the start sequence with its distance. -/
theorem readResultsReturnsRecords : Obligations.ReadResultsReturnsRecords := by
  intro t s f rest h hkind
  have hrow : Frame.isKind .readResults f = true := by simp [Frame.isKind, hkind, ReqKind.ofCode]
  refine ⟨fun h1 h3 => exec_answeredOnly (r := .refuse .malformed) rfl h hrow (readResults_of_length h1 h3 _) rfl, ?_⟩
  intro m start hpayload hstart
  have rule : ∀ x, readResults f.payload x = _ := fun x =>
    (congrArg (readResults · x) hpayload).trans (readResults_of_start hstart x)
  refine ⟨fun hrange =>
    exec_answeredOnly (r := .refuse .range) rfl h hrow ((rule _).trans (readFrom_of_range hrange _ _)) rfl, ?_⟩
  intro hmin hmax
  have carries : ∀ rs, readResults f.payload ((s.advance t).popped rest) =
        ((s.advance t).popped rest, resultsReply s.queue rs) →
      ∃ s' p, exec (.readResults t) s = .next s' ∧ answeredOnly f rest p s s' ∧
        resultsCarried s.queue.records.length rs p := fun rs hbody =>
    have ⟨s', hs', answer⟩ := exec_answeredOnly (c := .readResults t) rfl h hrow hbody rfl
    ⟨s', _, hs', answer, resultsReply_carried s.queue rs⟩
  refine ⟨?oldest, ?from_start⟩
  case oldest =>
    rintro rfl
    exact carries _ ((rule _).trans (readFrom_of_none hmin hmax _))
  case from_start =>
    rintro x0 x1 d rfl hd
    rw [← ofLeBytes_pair] at hd
    subst hd
    refine ⟨fun absent => ?_, fun held => ?_⟩
    · exact exec_answeredOnly (r := .refuse .seqAbsent) rfl h hrow
        ((rule _).trans (readFrom_of_absent hmin hmax absent)) rfl
    · rw [Nat.add_comm, ← Nat.sub_sub]
      exact carries _ ((rule _).trans (readFrom_of_held hmin hmax held))

end Sys2Proof.Machine
end

section
/-! What a command does, said once: the row and the rule of each request command, the blocks each command may touch,
and how an invariant of every command is one of every step. -/

namespace Sys2Proof.Machine

set_option Elab.async false

/-! ### Request commands -/

/-- The row that a request command recognises and the rule it runs; no other command takes a request. -/
def takingOf : Instr → Option ((Frame → Bool) × (List Byte → State → State × Reply))
  | .unknownKind _ => some (Frame.isUnknown, unknownKind)
  | .hello _ => some (Frame.isKind .hello, noParameters helloReply)
  | .status _ => some (Frame.isKind .status, noParameters statusReport)
  | .setNotices _ => some (Frame.isKind .setNotices, setNotices)
  | .resetPlan _ => some (Frame.isResetPlan, resetPlan)
  | .resetFull _ => some (Frame.isResetFull, resetFull)
  | .setLink _ => some (Frame.isKind .setLink, setLink)
  | .defineStep _ => some (Frame.isKind .defineStep, defineStep)
  | .readStep _ => some (Frame.isKind .readStep, readStep)
  | .eraseSteps _ => some (Frame.isKind .eraseSteps, eraseSteps)
  | .readResults _ => some (Frame.isKind .readResults, readResults)
  | .ackResults _ => some (Frame.isKind .ackResults, ackResults)
  | .defineProfile _ => some (Frame.isKind .defineProfile, defineProfile)
  | .readProfile _ => some (Frame.isKind .readProfile, readProfile)
  | .eraseProfile _ => some (Frame.isKind .eraseProfile, eraseProfile)
  | .compute _ => some (Frame.isKind .compute, computeSignature)
  | .setProbe _ => some (Frame.isKind .setProbe, setProbe)
  | .readProbes _ => some (Frame.isKind .readProbes, noParameters readProbes)
  | .run _ => some (Frame.isKind .run, runPlan)
  | .pause _ => some (Frame.isKind .pause, noParameters pausePlan)
  | .resume _ => some (Frame.isKind .resume, noParameters resumePlan)
  | .abort _ => some (Frame.isKind .abort, noParameters abortPlan)
  | .markStart _ => some (Frame.isMarkStart, markStart)
  | .markStop _ => some (Frame.isMarkStop, markStop)
  | .feed _ => some (Frame.isKind .feed, feed)
  | .setFlag _ => some (Frame.isKind .setFlag, setFlag)
  | .driveFlags _ => some (Frame.isKind .driveFlags, driveFlags)
  | .powerOn _ _ _ | .resetLineAssert _ | .resetLine _ _ | .pinChange _ _ _ | .filterExpiry _ _
  | .edgeReceipt _ _ _ _ | .settleEnd _ | .stepTimerExpiry _ | .targetChange _ _ | .holdEnd _ _
  | .pulseEnd _ _ | .character _ _ | .lowStopBit _ _ | .framing _ | .gap _ | .brk _ | .frameSent _
  | .startBit _ _ | .rxdReturnHigh _ => none

/-- A request command is a taking at its instant. -/
theorem exec_of_takingOf {c : Instr} {row : Frame → Bool} {body : List Byte → State → State × Reply}
    (h : takingOf c = some (row, body)) (s : State) :
    exec c s = .next ((s.advance (instantOf c)).takeRequest row body) := by
  cases c <;> cases h <;> rfl

/-- The frame that a taking has removed is answered from the cache, or by the request's own rule (spec/09 R158, R160). -/
theorem State.treat_cases (body : List Byte → State → State × Reply) (f : Frame) (s : State) :
    (∃ old, s.interp.cached f.tag = some old ∧ s.treat body f = s.giveReply f.tag old .nothing) ∨
      s.treat body f =
        (body f.payload s).1.giveReply f.tag (replyFrame f (body f.payload s).2) (body f.payload s).2.attached := by
  unfold State.treat
  split
  · next old h =>
    split at h
    · exact .inl ⟨old, h, rfl⟩
    · cases h
  · exact .inr rfl

/-- A taking does not come about, or the oldest frame leaves, the cached reply or the rule's is given, and the happening
ends (spec/09 R156, R158, R160). -/
theorem State.takeRequest_cases (row : Frame → Bool) (body : List Byte → State → State × Reply) (s : State) :
    s.takeRequest row body = s ∨
    ∃ f rest, s.interp.requests = f :: rest ∧ s.mayTake = true ∧ row f = true ∧
      ((∃ old, s.interp.cached f.tag = some old ∧
          s.takeRequest row body = ((s.popped rest).giveReply f.tag old .nothing).finish s) ∨
        s.takeRequest row body =
          ((body f.payload (s.popped rest)).1.giveReply f.tag (replyFrame f (body f.payload (s.popped rest)).2)
            (body f.payload (s.popped rest)).2.attached).finish s) := by
  unfold State.takeRequest
  split
  · exact .inl rfl
  · next f rest hq =>
    split
    · next hc =>
      obtain ⟨hmay, hrow⟩ := Bool.and_eq_true_iff.mp hc
      refine .inr ⟨f, rest, hq, hmay, hrow, ?_⟩
      rcases State.treat_cases body f (s.popped rest) with ⟨old, hold, h⟩ | h
      · exact .inl ⟨old, hold, congrArg (State.finish · s) h⟩
      · exact .inr (congrArg (State.finish · s) h)
    · exact .inl rfl

/-- What the parts of a taking keep, a taking keeps. -/
theorem State.takeRequest_keeps {P : State → Prop} {row : Frame → Bool} {body : List Byte → State → State × Reply}
    {s : State} (hs : P s) (hpop : ∀ rest, P (s.popped rest)) (hbody : ∀ p x, P x → P (body p x).1)
    (hgive : ∀ tag g a x, P x → P (x.giveReply tag g a)) (hfinish : ∀ x, P x → P (x.finish s)) :
    P (s.takeRequest row body) := by
  rcases s.takeRequest_cases row body with h | ⟨f, rest, -, -, -, ⟨old, -, h⟩ | h⟩ <;> rw [h]
  · exact hs
  · exact hfinish _ (hgive _ _ _ _ (hpop rest))
  · exact hfinish _ (hgive _ _ _ _ (hbody _ _ (hpop rest)))

/-! ### The blocks that a rule touches -/

/-- From `s` to `s'` only the blocks of a list may differ, and the present instant stands. -/
def reaches (bs : List Block) (s s' : State) : Prop := s'.now = s.now ∧ unchangedBut bs s s'

/-- Nothing reaches nothing. -/
theorem reaches_refl (bs : List Block) (s : State) : reaches bs s s :=
  ⟨rfl, fun b _ => by cases b <;> rfl, rfl, rfl, rfl⟩

/-- Blocks that two changes do not reach stand through both. -/
theorem reaches.trans {bs : List Block} {a b c : State} (h1 : reaches bs a b) (h2 : reaches bs b c) :
    reaches bs a c := by
  obtain ⟨n1, b1, l1, p1, c1⟩ := h1
  obtain ⟨n2, b2, l2, p2, c2⟩ := h2
  refine ⟨n2.trans n1, fun x hx => ?_, l2.trans l1, p2.trans p1, c2.trans c1⟩
  have hx1 := b1 x hx
  have hx2 := b2 x hx
  cases x <;> exact hx2.trans hx1

/-- What reaches some blocks at most reaches more at most. -/
theorem reaches.mono {bs cs : List Block} {a b : State} (h : reaches bs a b) (hsub : bs ⊆ cs) : reaches cs a b :=
  ⟨h.1, fun x hx => h.2.1 x fun hb => hx (hsub hb), h.2.2⟩

/-- A rule reaches at most the blocks of a list, whatever the payload. -/
def ruleTouches (bs : List Block) (body : List Byte → State → State × Reply) : Prop :=
  ∀ payload x, reaches bs x (body payload x).1

/-- A rule that only answers reaches nothing. -/
theorem ruleTouches_of_state {body : List Byte → State → State × Reply} (h : ∀ p x, (body p x).1 = x)
    (bs : List Block) : ruleTouches bs body := fun p x => by
  rw [h]
  exact reaches_refl bs x

/-- A request without parameters reaches what its own rule reaches. -/
theorem ruleTouches_noParameters {bs : List Block} {own : State → State × Reply}
    (h : ∀ x, reaches bs x (own x).1) : ruleTouches bs (noParameters own) := by
  intro payload x
  unfold noParameters
  split
  · exact h x
  · exact reaches_refl bs x

/-- A rule of a slot request reaches what it reaches from the slot it is given. -/
theorem reaches_withSlot {bs : List Block} {b : Byte} {s : State} {own : Fin 16 → State × Reply}
    (h : ∀ slot, reaches bs s (own slot).1) : reaches bs s (withSlot b s own).1 := by
  unfold withSlot
  split
  · exact h _
  · exact reaches_refl bs s

end Sys2Proof.Machine
end

section
/-! The blocks that each rule and each command touches, and what follows for the whole machine: every command completes,
and a step does one command (spec/00 0.8.4). -/

namespace Sys2Proof.Machine

set_option Elab.async false

/-! ### The blocks that each rule touches -/

theorem setNotices_touches : ruleTouches [.interp, .tx] setNotices := by
  intro p x
  unfold setNotices
  split
  · exact ⟨rfl, fun b hb => by cases b <;> simp [sameBlock] at hb ⊢, rfl, rfl, rfl⟩
  · exact reaches_refl _ x

theorem resetPlan_touches : ruleTouches [.seq, .units, .queue, .flags] resetPlan := by
  intro p x
  unfold resetPlan
  split
  · split
    · exact ⟨by simp, fun b hb => by cases b <;> simp [sameBlock] at hb ⊢, by simp, by simp, by simp⟩
    · exact reaches_refl _ x
  · exact reaches_refl _ x

theorem resetFull_touches : ruleTouches [.interp] resetFull := by
  intro p x
  unfold resetFull
  split
  · split
    · exact ⟨rfl, fun b hb => by cases b <;> simp [sameBlock] at hb ⊢, rfl, rfl, rfl⟩
    · exact reaches_refl _ x
  · exact reaches_refl _ x

theorem setLink_touches : ruleTouches [.rx] setLink := by
  intro p x
  unfold setLink
  split
  · split
    · exact reaches_refl _ x
    · split
      · exact reaches_refl _ x
      · exact ⟨rfl, fun b hb => by cases b <;> simp [sameBlock] at hb ⊢, rfl, rfl, rfl⟩
  · exact reaches_refl _ x

theorem defineStep_touches : ruleTouches [.steps] defineStep := by
  intro p x
  unfold defineStep
  split
  · exact reaches_refl _ x
  · split
    · exact reaches_refl _ x
    · split
      · exact reaches_refl _ x
      · exact ⟨rfl, fun b hb => by cases b <;> simp [sameBlock] at hb ⊢, rfl, rfl, rfl⟩

/-- READ STEP only answers (spec/04 R75). -/
theorem readStep_state (p : List Byte) (x : State) : (readStep p x).1 = x := by
  unfold readStep
  split
  · split
    · split <;> rfl
    · rfl
  · rfl

theorem eraseSteps_touches : ruleTouches [.steps] eraseSteps := by
  intro p x
  unfold eraseSteps
  split
  · split
    · exact reaches_refl _ x
    · split
      · exact reaches_refl _ x
      · exact ⟨rfl, fun b hb => by cases b <;> simp [sameBlock] at hb ⊢, rfl, rfl, rfl⟩
  · exact reaches_refl _ x

/-- READ RESULTS only answers (spec/06 R119). -/
theorem readResults_state (p : List Byte) (x : State) : (readResults p x).1 = x := by
  have from_start : ∀ most start, (readFrom most start x).1 = x := by
    intro most start
    unfold readFrom
    split
    · rfl
    · split
      · rfl
      · split <;> rfl
  unfold readResults
  split
  · exact from_start _ _
  · exact from_start _ _
  · rfl

theorem State.askAgain_touches (s : State) : reaches [.seq, .units, .queue, .flags, .tx] s s.askAgain :=
  ⟨by simp, fun b hb => by cases b <;> simp [sameBlock] at hb ⊢, by simp, by simp, by simp⟩

theorem ackResults_touches : ruleTouches [.seq, .units, .queue, .flags, .tx] ackResults := by
  intro p x
  unfold ackResults
  split
  · dsimp only
    split
    · exact ⟨by simp, fun b hb => by cases b <;> simp [sameBlock] at hb ⊢, by simp, by simp, by simp⟩
    · split <;> exact reaches_refl _ x
  · exact reaches_refl _ x

theorem State.setProfile_touches (n : Fin 16) (p : Option Profile) (s : State) :
    reaches [.profiles] s (s.setProfile n p) :=
  ⟨by simp, fun b hb => by cases b <;> simp [sameBlock] at hb ⊢, by simp, by simp, by simp⟩

theorem defineProfile_touches : ruleTouches [.profiles] defineProfile := by
  intro p x
  unfold defineProfile
  split
  · refine reaches_withSlot fun slot => ?_
    split
    · exact reaches_refl _ x
    · split
      · exact reaches_refl _ x
      · split
        · exact reaches_refl _ x
        · exact x.setProfile_touches _ _
  · exact reaches_refl _ x

/-- READ PROFILE only answers (spec/01 R15). -/
theorem readProfile_state (p : List Byte) (x : State) : (readProfile p x).1 = x := by
  unfold readProfile withSlot
  split
  · split
    · dsimp only
      split <;> rfl
    · rfl
  · rfl

theorem eraseProfile_touches : ruleTouches [.profiles] eraseProfile := by
  intro p x
  unfold eraseProfile
  split
  · refine reaches_withSlot fun slot => ?_
    split
    · exact reaches_refl _ x
    · split
      · exact reaches_refl _ x
      · exact x.setProfile_touches _ _
  · exact reaches_refl _ x

/-- COMPUTE only answers (spec/01 R17). -/
theorem computeSignature_state (p : List Byte) (x : State) : (computeSignature p x).1 = x := by
  unfold computeSignature withSlot
  split
  · split
    · rfl
    · split
      · dsimp only
        split <;> rfl
      · rfl
  · rfl

theorem State.setLine_touches (n : Fin 16) (p : ProbeLine) (s : State) :
    reaches [.probes, .units] s (s.setLine n p) :=
  ⟨by simp, fun b hb => by cases b <;> simp [sameBlock] at hb ⊢, by simp, by simp, by simp⟩

theorem State.configureLines_touches (mask : BitVec 16) (invert : Bool) (filter : Nat) (s : State) :
    reaches [.probes, .units] s (s.configureLines mask invert filter) := by
  unfold State.configureLines
  generalize allLines = lines
  induction lines generalizing s with
  | nil => exact reaches_refl _ s
  | cons n lines ih =>
    refine reaches.trans ?_ (ih _)
    dsimp only
    split
    · exact s.setLine_touches _ _
    · exact reaches_refl _ s

theorem setProbe_touches : ruleTouches [.probes, .units] setProbe := by
  intro p x
  unfold setProbe
  split
  · split
    · exact reaches_refl _ x
    · exact x.configureLines_touches _ _ _
  · exact reaches_refl _ x

/-- READ PROBES clears the marks (spec/02 R30). -/
theorem readProbes_state (s : State) :
    (readProbes s).1 = { s with probes := Vector.ofFn fun n => { s.probes[n] with mark := false } } := rfl

theorem readProbes_touches : ruleTouches [.probes] (noParameters readProbes) := by
  refine ruleTouches_noParameters fun x => ?_
  rw [readProbes_state]
  exact ⟨rfl, fun b hb => by cases b <;> simp [sameBlock] at hb ⊢, rfl, rfl, rfl⟩

theorem State.startStep_touches (s : State) : reaches [.seq, .units, .flags] s s.startStep :=
  ⟨by simp, fun b hb => by cases b <;> simp [sameBlock] at hb ⊢, by simp, by simp, by simp⟩

theorem runPlan_touches : ruleTouches [.seq, .units, .flags] runPlan := by
  intro p x
  unfold runPlan
  split
  · split
    · exact reaches_refl _ x
    · split
      · split
        · exact reaches_refl _ x
        · exact ⟨by simp [State.startRun], fun b hb => by cases b <;> simp [sameBlock, State.startRun] at hb ⊢, by simp [State.startRun],
            by simp [State.startRun], by simp [State.startRun]⟩
      · exact reaches_refl _ x
  · exact reaches_refl _ x

theorem pausePlan_touches : ruleTouches [.seq] (noParameters pausePlan) := by
  refine ruleTouches_noParameters fun x => ?_
  unfold pausePlan
  split
  · exact reaches_refl _ x
  · split
    · exact reaches_refl _ x
    · exact ⟨rfl, fun b hb => by cases b <;> simp [sameBlock] at hb ⊢, rfl, rfl, rfl⟩

theorem resumePlan_touches : ruleTouches [.seq, .units, .flags] (noParameters resumePlan) := by
  refine ruleTouches_noParameters fun x => ?_
  unfold resumePlan
  split
  · exact x.startStep_touches
  · split
    · exact ⟨rfl, fun b hb => by cases b <;> simp [sameBlock] at hb ⊢, rfl, rfl, rfl⟩
    · exact reaches_refl _ x

theorem abortPlan_touches : ruleTouches [.seq, .units, .flags] (noParameters abortPlan) := by
  refine ruleTouches_noParameters fun x => ?_
  unfold abortPlan
  split
  · exact reaches_refl _ x
  · exact ⟨by simp, fun b hb => by cases b <;> simp [sameBlock] at hb ⊢, by simp, by simp, by simp⟩

theorem markStart_touches : ruleTouches [.units] markStart := by
  intro p x
  unfold markStart
  split
  · split
    · exact reaches_refl _ x
    · exact ⟨rfl, fun b hb => by cases b <;> simp [sameBlock] at hb ⊢, rfl, rfl, rfl⟩
  · exact reaches_refl _ x

theorem State.closeUnit_touches (r : CloseReason) (u : Fin 8) (s : State) :
    reaches [.seq, .units, .queue, .flags, .tx] s (s.closeUnit r u) :=
  ⟨by simp, fun b hb => by cases b <;> simp [sameBlock] at hb ⊢, by simp, by simp, by simp⟩

theorem markStop_touches : ruleTouches [.seq, .units, .queue, .flags, .tx] markStop := by
  intro p x
  unfold markStop
  split
  · split
    · exact reaches_refl _ x
    · exact ⟨by simp, fun b hb => by cases b <;> simp [sameBlock] at hb ⊢, by simp, by simp, by simp⟩
  · exact reaches_refl _ x

theorem feed_touches : ruleTouches [.seq, .units, .queue, .flags, .tx] feed := by
  intro p x
  unfold feed
  split
  · split
    · exact reaches_refl _ x
    · split
      · dsimp only
        split
        · exact reaches_refl _ x
        · split
          · exact reaches_refl _ x
          · split
            · unfold feedUnit
              dsimp only
              split <;> exact ⟨by simp, fun b hb => by cases b <;> simp [sameBlock] at hb ⊢, by simp, by simp, by simp⟩
            · exact reaches_refl _ x
      · exact reaches_refl _ x
  · exact reaches_refl _ x

theorem setFlag_touches : ruleTouches [.flags] setFlag := by
  intro p x
  unfold setFlag
  split
  · split
    · exact reaches_refl _ x
    · exact ⟨rfl, fun b hb => by cases b <;> simp [sameBlock] at hb ⊢, rfl, rfl, rfl⟩
  · exact reaches_refl _ x

theorem driveFlags_touches : ruleTouches [.flags] driveFlags := by
  intro p x
  unfold driveFlags
  split
  · exact ⟨rfl, fun b hb => by cases b <;> simp [sameBlock] at hb ⊢, rfl, rfl, rfl⟩
  · exact reaches_refl _ x

/-! ### The blocks that each command touches -/

/-- Every block. -/
def allBlocks : List Block := [.probes, .profiles, .steps, .units, .seq, .queue, .flags, .rx, .interp, .tx]

/-- The blocks that the rule of a request command may touch, or a happening itself. -/
def ownBlocks : Instr → List Block
  | .powerOn _ _ _ | .resetLineAssert _ | .resetLine _ _ | .brk _ | .frameSent _ => allBlocks
  | .pinChange _ _ _ | .filterExpiry _ _ | .setProbe _ => [.probes, .units]
  | .edgeReceipt _ _ _ _ | .stepTimerExpiry _ | .ackResults _ | .markStop _ | .feed _ =>
    [.seq, .units, .queue, .flags, .tx]
  | .settleEnd _ => [.seq, .units, .flags, .tx]
  | .targetChange _ _ | .holdEnd _ _ | .pulseEnd _ _ | .setFlag _ | .driveFlags _ => [.flags]
  | .character _ _ => [.flags, .rx, .interp, .tx]
  | .framing _ | .gap _ => [.flags, .rx, .tx]
  | .lowStopBit _ _ | .startBit _ _ | .rxdReturnHigh _ | .setLink _ => [.rx]
  | .unknownKind _ | .hello _ | .status _ | .readStep _ | .readResults _ | .readProfile _ | .compute _ => []
  | .setNotices _ => [.interp, .tx]
  | .resetPlan _ => [.seq, .units, .queue, .flags]
  | .resetFull _ => [.interp]
  | .defineStep _ | .eraseSteps _ => [.steps]
  | .defineProfile _ | .eraseProfile _ => [.profiles]
  | .readProbes _ => [.probes]
  | .run _ | .resume _ | .abort _ => [.seq, .units, .flags]
  | .pause _ => [.seq]
  | .markStart _ => [.units]

/-- The blocks that a command may touch: its own, and those of every taking (spec/07 R126, spec/09 R158). -/
def touched (c : Instr) : List Block :=
  ownBlocks c ++ if (takingOf c).isSome then [.flags, .interp, .tx] else []

/-- The rule of a request command touches the command's own blocks. -/
theorem rule_touches {c : Instr} {row : Frame → Bool} {body : List Byte → State → State × Reply}
    (h : takingOf c = some (row, body)) : ruleTouches (ownBlocks c) body := by
  cases c <;> cases h
  case unknownKind => exact ruleTouches_of_state (fun _ _ => rfl) _
  case hello => exact ruleTouches_noParameters fun x => reaches_refl _ x
  case status => exact ruleTouches_noParameters fun x => reaches_refl _ x
  case setNotices => exact setNotices_touches
  case resetPlan => exact resetPlan_touches
  case resetFull => exact resetFull_touches
  case setLink => exact setLink_touches
  case defineStep => exact defineStep_touches
  case readStep => exact ruleTouches_of_state readStep_state _
  case eraseSteps => exact eraseSteps_touches
  case readResults => exact ruleTouches_of_state readResults_state _
  case ackResults => exact ackResults_touches
  case defineProfile => exact defineProfile_touches
  case readProfile => exact ruleTouches_of_state readProfile_state _
  case eraseProfile => exact eraseProfile_touches
  case compute => exact ruleTouches_of_state computeSignature_state _
  case setProbe => exact setProbe_touches
  case readProbes => exact readProbes_touches
  case run => exact runPlan_touches
  case pause => exact pausePlan_touches
  case resume => exact resumePlan_touches
  case abort => exact abortPlan_touches
  case markStart => exact markStart_touches
  case markStop => exact markStop_touches
  case feed => exact feed_touches
  case setFlag => exact setFlag_touches
  case driveFlags => exact driveFlags_touches

/-- A taking reaches what its rule reaches, the interpreter, the transmitter and the flag targets. -/
theorem State.takeRequest_reaches {bs : List Block} {body : List Byte → State → State × Reply}
    (h : ruleTouches bs body) (row : Frame → Bool) (s : State) :
    reaches (bs ++ [.flags, .interp, .tx]) s (s.takeRequest row body) := by
  refine State.takeRequest_keeps (P := reaches (bs ++ [.flags, .interp, .tx]) s) (reaches_refl _ s) ?_ ?_ ?_ ?_
  · exact fun rest => ⟨rfl, fun b hb => by cases b <;> simp [sameBlock, State.popped] at hb ⊢, rfl, rfl, rfl⟩
  · exact fun p x hx => hx.trans ((h p x).mono (List.subset_append_left _ _))
  · exact fun tag g a x hx =>
      hx.trans ⟨rfl, fun b hb => by cases b <;> simp [sameBlock] at hb ⊢, rfl, rfl, rfl⟩
  · exact fun x hx =>
      hx.trans ⟨by simp, fun b hb => by cases b <;> simp [sameBlock] at hb ⊢, by simp, by simp, by simp⟩

/-- What every command leaves: the present instant, the commands that wait, the count of choices, and the blocks that it
does not touch. -/
structure Completes (c : Instr) (s s' : State) : Prop where
  now : s'.now = max s.now (instantOf c)
  pending : s'.pending = s.pending
  choices : s'.choices = s.choices
  blocks : ∀ b, b ∉ touched c → sameBlock b s s'

/-- A happening of the part's own completes. -/
theorem exec_completes_of_happening {c : Instr} (h : takingOf c = none) (s : State) :
    ∃ s', exec c s = .next s' ∧ Completes c s s' := by
  have happening : ∀ {r : Result} {s'}, r = .next s' → s'.now = max s.now (instantOf c) → s'.pending = s.pending →
      s'.choices = s.choices → (∀ b, b ∉ ownBlocks c → sameBlock b s s') → ∃ s', r = .next s' ∧ Completes c s s' :=
    fun hr hn hp hc hb => ⟨_, hr, hn, hp, hc, fun b hnot => hb b fun hmem => hnot (List.mem_append_left _ hmem)⟩
  cases c <;> cases h
  case powerOn => exact happening rfl (by simp; rfl) (by simp) (by simp) fun b hb => by cases b <;> simp [ownBlocks, allBlocks] at hb
  case resetLineAssert =>
    unfold exec execResetLineAssert
    dsimp only
    split
    · exact happening rfl rfl rfl rfl fun b _ => by cases b <;> rfl
    · exact happening rfl rfl rfl rfl fun b hb => by cases b <;> simp [ownBlocks, allBlocks] at hb
  case resetLine =>
    unfold exec execResetLine
    dsimp only
    split
    · exact happening rfl (by simp; rfl) (by simp) (by simp) fun b hb => by
        cases b <;> simp [ownBlocks, allBlocks] at hb
    · exact happening rfl rfl rfl rfl fun b _ => by cases b <;> rfl
  case edgeReceipt =>
    unfold exec execEdgeReceipt
    dsimp only
    split
    · exact happening rfl rfl rfl rfl fun b _ => by cases b <;> rfl
    · split
      · exact happening rfl (by simp; rfl) (by simp) (by simp) fun b hb => by
          cases b <;> simp [sameBlock, ownBlocks] at hb ⊢
      · exact happening rfl rfl rfl rfl fun b _ => by cases b <;> rfl
  case settleEnd =>
    unfold exec execSettleEnd
    dsimp only
    split
    · exact happening rfl (by simp; rfl) (by simp) (by simp) fun b hb => by
        cases b <;> simp [sameBlock, ownBlocks] at hb ⊢
    · exact happening rfl rfl rfl rfl fun b _ => by cases b <;> rfl
  case stepTimerExpiry =>
    unfold exec execStepTimerExpiry
    dsimp only
    split
    · exact happening rfl (by simp; rfl) (by simp) (by simp) fun b hb => by
        cases b <;> simp [sameBlock, ownBlocks] at hb ⊢
    · exact happening rfl rfl rfl rfl fun b _ => by cases b <;> rfl
  case targetChange | holdEnd | pulseEnd =>
    exact happening rfl rfl rfl rfl fun b hb => by cases b <;> simp [sameBlock, ownBlocks] at hb ⊢
  case character =>
    unfold exec execCharacter
    dsimp only
    split
    · exact happening rfl rfl rfl rfl fun b _ => by cases b <;> rfl
    · exact happening rfl (by simp; rfl) (by simp) (by simp) fun b hb => by
        cases b <;> simp [sameBlock, ownBlocks] at hb ⊢
  case framing =>
    unfold exec execFraming
    dsimp only
    split
    · split
      · exact happening rfl (by simp; rfl) (by simp) (by simp) fun b hb => by
          cases b <;> simp [sameBlock, ownBlocks] at hb ⊢
      · exact happening rfl rfl rfl rfl fun b _ => by cases b <;> rfl
    all_goals exact happening rfl rfl rfl rfl fun b _ => by cases b <;> rfl
  case gap =>
    unfold exec execGap
    dsimp only
    split
    · exact happening rfl (by simp; rfl) (by simp) (by simp) fun b hb => by
        cases b <;> simp [sameBlock, ownBlocks] at hb ⊢
    · exact happening rfl rfl rfl rfl fun b _ => by cases b <;> rfl
  case brk =>
    unfold exec execBrk
    dsimp only
    split
    · exact happening rfl (by simp; rfl) (by simp) (by simp) fun b hb => by
        cases b <;> simp [ownBlocks, allBlocks] at hb
    · exact happening rfl rfl rfl rfl fun b _ => by cases b <;> rfl
  case frameSent =>
    unfold exec execFrameSent
    dsimp only
    split
    · exact happening rfl rfl rfl rfl fun b _ => by cases b <;> rfl
    · split
      · exact happening rfl (by simp; rfl) (by simp) (by simp) fun b hb => by
          cases b <;> simp [ownBlocks, allBlocks] at hb
      · exact happening rfl rfl rfl rfl fun b _ => by cases b <;> rfl
  case pinChange =>
    unfold exec execPinChange
    dsimp only
    split
    · exact happening rfl rfl rfl rfl fun b _ => by cases b <;> rfl
    · split
      · exact happening rfl rfl rfl rfl fun b hb => by cases b <;> simp [sameBlock, ownBlocks] at hb ⊢
      · exact happening rfl (by simp; rfl) (by simp) (by simp) fun b hb => by
          cases b <;> simp [sameBlock, ownBlocks] at hb ⊢
  case filterExpiry =>
    exact happening rfl (by simp; rfl) (by simp) (by simp) fun b hb => by
      cases b <;> simp [sameBlock, ownBlocks] at hb ⊢
  case lowStopBit =>
    unfold exec execLowStopBit
    dsimp only
    split
    · exact happening rfl rfl rfl rfl fun b _ => by cases b <;> rfl
    · exact happening rfl rfl rfl rfl fun b hb => by cases b <;> simp [sameBlock, ownBlocks] at hb ⊢
  case startBit =>
    unfold exec execStartBit
    dsimp only
    split
    · exact happening rfl rfl rfl rfl fun b _ => by cases b <;> rfl
    · split <;> exact happening rfl rfl rfl rfl fun b hb => by cases b <;> simp [sameBlock, ownBlocks] at hb ⊢
  case rxdReturnHigh =>
    unfold exec execRxdReturnHigh
    dsimp only
    split
    · exact happening rfl rfl rfl rfl fun b hb => by cases b <;> simp [sameBlock, ownBlocks] at hb ⊢
    · exact happening rfl rfl rfl rfl fun b hb => by cases b <;> simp [sameBlock, ownBlocks] at hb ⊢
    · split
      · exact happening rfl rfl rfl rfl fun b hb => by cases b <;> simp [sameBlock, ownBlocks] at hb ⊢
      · exact happening rfl rfl rfl rfl fun b _ => by cases b <;> rfl
    all_goals exact happening rfl rfl rfl rfl fun b _ => by cases b <;> rfl

/-- Every command completes, from every state. -/
theorem exec_completes (c : Instr) (s : State) : ∃ s', exec c s = .next s' ∧ Completes c s s' := by
  cases htake : takingOf c with
  | none => exact exec_completes_of_happening htake s
  | some rb =>
    obtain ⟨now, blocks, -, pending, choices⟩ :=
      State.takeRequest_reaches (rule_touches htake) rb.1 (s.advance (instantOf c))
    refine ⟨_, exec_of_takingOf htake s, now, pending, choices, fun b hb => ?_⟩
    have := blocks b (by simpa [touched, htake] using hb)
    cases b <;> exact this

/-- A command leaves every block that it does not touch as it stands. -/
theorem exec_sameBlock {c : Instr} {s s' : State} (h : exec c s = .next s') {b : Block} (hb : b ∉ touched c) :
    sameBlock b s s' := by
  obtain ⟨x, hx, done⟩ := exec_completes c s
  obtain rfl : x = s' := by
    rw [hx] at h
    exact Host.Outcome.next.inj h
  exact done.blocks b hb

/-- The present instant after a command. -/
theorem exec_now {c : Instr} {s s' : State} (h : exec c s = .next s') : s'.now = max s.now (instantOf c) := by
  obtain ⟨x, hx, done⟩ := exec_completes c s
  obtain rfl : x = s' := by
    rw [hx] at h
    exact Host.Outcome.next.inj h
  exact done.now

/-! ### The whole machine (spec/00 0.8.4) -/

/-- Settles O1: the command in front is the one that a step runs. -/
theorem stepRunsFrontCommand : Obligations.StepRunsFrontCommand := fun _ _ _ => rfl

/-- Settles O3, by the branches of each command. -/
theorem everyCommandCompletes : Obligations.EveryCommandCompletes := fun c s =>
  have ⟨s', hs', done⟩ := exec_completes c s
  ⟨s', hs', done.now, done.pending, done.choices⟩

/-- An invariant of every command that sees neither the commands that wait nor the count of choices is one of every step. -/
theorem step_keeps {P : State → Prop} (hcmd : ∀ c s s', P s → exec c s = .next s' → P s')
    (hpending : ∀ s cs, P s → P { s with pending := cs }) (hchoices : ∀ s n, P s → P { s with choices := n })
    {s s' : State} (hs : P s) (h : step s = .next s') : P s' := by
  unfold step at h
  split at h
  · exact hcmd _ _ _ (hpending _ _ hs) h
  · split at h
    · exact hcmd _ _ _ (hchoices _ _ hs) h
    · cases h
      exact hs

/-! ### The part's own next happening -/

/-- Of some happenings, the earliest instant is that of one of them and not after that of any. -/
theorem earliest_eq_some (now : Nat) (ds : List Due) (h : ds ≠ []) :
    ∃ t, earliest now ds = some t ∧ (∃ d ∈ ds, dueAt now d = t) ∧ ∀ d ∈ ds, t ≤ dueAt now d := by
  induction ds with
  | nil => exact absurd rfl h
  | cons d ds ih =>
    cases hds : ds with
    | nil => exact ⟨dueAt now d, rfl, ⟨d, by simp, rfl⟩, by simp⟩
    | cons e es =>
      obtain ⟨t, ht, ⟨x, hx, hxt⟩, hle⟩ := ih (by simp [hds])
      rw [← hds]
      refine ⟨min (dueAt now d) t, by simp [earliest, ht], ?_, ?_⟩
      · rcases Nat.le_total (dueAt now d) t with hd | hd
        · exact ⟨d, by simp, (Nat.min_eq_left hd).symm⟩
        · exact ⟨x, List.mem_cons_of_mem _ hx, hxt.trans (Nat.min_eq_right hd).symm⟩
      · intro y hy
        rcases List.mem_cons.mp hy with rfl | hy
        · exact Nat.min_le_left _ _
        · exact (Nat.min_le_right _ _).trans (hle y hy)

/-- The happenings that come first are each an owed one of the earliest instant, and there is one. -/
theorem State.firstOwn_of_owes {s : State} (h : s.ownHappenings ≠ []) :
    s.firstOwn ≠ [] ∧ ∀ c ∈ s.firstOwn, ∃ d ∈ s.ownHappenings,
      (∀ e ∈ s.ownHappenings, dueAt s.now d ≤ dueAt s.now e) ∧ c = d.2 (dueAt s.now d) := by
  obtain ⟨t, ht, ⟨x, hx, hxt⟩, hle⟩ := earliest_eq_some s.now _ h
  have heq : s.firstOwn = (s.ownHappenings.filter fun d => decide (dueAt s.now d = t)).map fun d => d.2 t := by
    simp only [State.firstOwn, ht]
  rw [heq]
  refine ⟨fun hnil => ?_, fun c hc => ?_⟩
  · have := List.filter_eq_nil_iff.mp (List.map_eq_nil_iff.mp hnil) x hx
    exact this (by simpa using hxt)
  · obtain ⟨d, hd, rfl⟩ := List.mem_map.mp hc
    obtain ⟨howed, hdt⟩ := List.mem_filter.mp hd
    obtain rfl := of_decide_eq_true hdt
    exact ⟨d, howed, hle, rfl⟩

/-- The next own happening is one of those that come first, and there is one where any comes first. -/
theorem State.nextOwn_mem {s : State} (h : s.firstOwn ≠ []) : ∃ c ∈ s.firstOwn, s.nextOwn = some c := by
  unfold State.nextOwn
  split
  · next hnil => exact absurd hnil h
  · next c hone => exact ⟨c, by simp [hone], rfl⟩
  · next c c' cs hmore =>
    have hlt : Config.tieBreak s.choices % (cs.length + 2) < (c :: c' :: cs).length :=
      Nat.mod_lt _ (by simp)
    refine ⟨(c :: c' :: cs)[_]'hlt, ?_, List.getElem?_eq_getElem hlt⟩
    rw [hmore]
    exact List.getElem_mem hlt

/-- Settles O2: the next own happening is one of those of the earliest instant. -/
theorem idleStepDoesEarliestHappening : Obligations.IdleStepDoesEarliestHappening := by
  intro s hempty
  refine ⟨fun hnone => ?_, fun howes => ?_⟩
  · have hfirst : s.firstOwn = [] := by simp [State.firstOwn, hnone, earliest]
    simp [step, hempty, State.nextOwn, hfirst]
  · obtain ⟨hsome, hown⟩ := State.firstOwn_of_owes howes
    obtain ⟨c, hc, hnext⟩ := State.nextOwn_mem hsome
    obtain ⟨d, hd, hle, rfl⟩ := hown c hc
    exact ⟨d, hd, hle, by simp [step, hempty, hnext]⟩

end Sys2Proof.Machine
end

section
/-! The resets of the part (spec/09 R167, R170, R174): what they leave in every block, and that a command which resets the
part either does so or reaches only the link. -/

namespace Sys2Proof.Machine

set_option Elab.async false

/-- What a vector holds after one place has taken a value. -/
theorem getElem_set_fin {α : Type} {k : Nat} (v : Vector α k) (i j : Fin k) (x : α) :
    (v.set i x)[j] = if j = i then x else v[j] := by
  simp only [Fin.getElem_fin, Vector.getElem_set, Fin.ext_iff, eq_comm]

/-- What a vector holds that a function of the places gives. -/
@[simp] theorem getElem_ofFn_fin {α : Type} {k : Nat} (g : Fin k → α) (i : Fin k) : (Vector.ofFn g)[i] = g i := by
  simp only [Fin.getElem_fin, Vector.getElem_ofFn]

/-- What a vector holds that repeats one value. -/
@[simp] theorem getElem_replicate_fin {α : Type} {k : Nat} (x : α) (i : Fin k) : (Vector.replicate k x)[i] = x := by
  simp only [Fin.getElem_fin, Vector.getElem_replicate]

/-- The blocks of a reset depend on those blocks alone. -/
theorem freshBlocks_congr {pins : Fin 16 → Bool} {s s' : State} (h : freshBlocks pins s)
    (same : ∀ b, b ∉ [Block.rx, .interp, .tx] → sameBlock b s s') : freshBlocks pins s' := by
  unfold freshBlocks
  rw [show s'.probes = s.probes from same .probes (by simp), show s'.profiles = s.profiles from same .profiles (by simp),
    show s'.steps = s.steps from same .steps (by simp), show s'.units = s.units from same .units (by simp),
    show s'.seq = s.seq from same .seq (by simp), show s'.queue = s.queue from same .queue (by simp),
    show s'.flags = s.flags from same .flags (by simp)]
  exact h

/-- The arbiter reaches the transmitter alone. -/
theorem State.arbitrate_sameBlock (s : State) (b : Block) (hb : b ≠ .tx) : sameBlock b s s.arbitrate := by
  cases b <;> simp [sameBlock] at hb ⊢

/-- Power-on and the reset line clear every block (spec/09 R174). -/
theorem State.cleared_fresh (rx : Receiver) (pins : Fin 16 → Bool) (s : State) :
    freshBlocks pins (s.cleared rx (Vector.ofFn fun n => ProbeLine.afterReset (pins n))) := by
  simp [freshBlocks, State.cleared, ProbeLine.afterReset, Sequencer.afterReset, ResultQueue.afterReset,
    FlagLine.afterReset]

/-- A FULL reset clears every block but the link (spec/09 R167). -/
theorem State.fullReset_fresh (s : State) : freshBlocks (fun n => (s.probes[n]).pin) s.fullReset := by
  simp [freshBlocks, State.fullReset, State.resampled, ProbeLine.afterReset, Sequencer.afterReset,
    ResultQueue.afterReset, FlagLine.afterReset]

/-- A START notice raised with nothing in flight and nothing else pending begins to leave (spec/09 R170, R172). -/
theorem State.cleared_start_begins (rx : Receiver) (probes : Vector ProbeLine 16) (s : State) (reason : StartReason) :
    startBegins (byteOf reason.code) (((s.cleared rx probes).raiseStart reason).arbitrate) := by
  simp [startBegins, State.arbitrate, State.cleared, State.raiseStart, Transmitter.choose, Transmitter.afterReset,
    StartNotice.payload, bumpCount, byteOf]

/-- What a reset of the part gives that ends with a START notice. -/
theorem State.cleared_restarts (rx : Receiver) (pins : Fin 16 → Bool) (s : State) (reason : StartReason) :
    let s' := ((s.cleared rx (Vector.ofFn fun n => ProbeLine.afterReset (pins n))).raiseStart reason).arbitrate
    s'.nResetLow = false ∧ freshBlocks pins s' ∧ freshInterpreter s' ∧ s'.rx = rx ∧
      startBegins (byteOf reason.code) s' := by
  refine ⟨by simp; rfl, ?_, by simp [freshInterpreter]; rfl, by simp; rfl, State.cleared_start_begins _ _ _ _⟩
  refine freshBlocks_congr (State.cleared_fresh rx pins s) fun b hb => ?_
  cases b <;> simp [sameBlock] at hb ⊢

/-- Settles O4: power-on and the rise of nRESET clear every block, and the arbiter chooses START. -/
theorem resetsRestartPart : Obligations.ResetsRestartPart := by
  refine ⟨fun t pins rxdLow s => ?_, fun t rxdLow s => ⟨fun hlow => ?_, fun hhigh => ?_⟩⟩
  · obtain ⟨hreset, hblocks, hinterp, hrx, hstart⟩ := State.cleared_restarts
      (Receiver.fromReset (s.advance t).now rxdLow) (fun n => pins.getLsbD n.val) (s.advance t) .powerUp
    exact ⟨_, rfl, hreset, hblocks, hinterp, hrx.trans (by simp; rfl), hstart⟩
  · obtain ⟨hreset, hblocks, hinterp, hrx, hstart⟩ := State.cleared_restarts
      (Receiver.fromReset (s.advance t).now rxdLow) (fun n => (s.probes[n]).pin) (s.advance t) .resetLine
    exact ⟨_, if_pos hlow, hreset, hblocks, hinterp, hrx.trans (by simp; rfl), hstart⟩
  · exact if_neg (by simp [hhigh])

/-- While nRESET is low a PIN_CHANGE moves the level of its own line with its pin (spec/02 R31). -/
theorem execPinChange_of_reset {s : State} (hlow : s.nResetLow = true) (t : Nat) (n : Fin 16) (b : Bool) :
    ∃ s', exec (.pinChange t n b) s = .next s' ∧ unchangedBut [.probes] s s' ∧
      s'.probes[n] = (if (s.probes[n]).pin = b then s.probes[n]
        else { s.probes[n] with pin := b, level := b ^^ (s.probes[n]).invert, state := .steady }) ∧
      ∀ m : Fin 16, m ≠ n → s'.probes[m] = s.probes[m] := by
  by_cases hpin : (s.probes[n]).pin = b
  · refine ⟨s.advance t, if_pos hpin, ?_, (if_pos hpin).symm, fun m _ => rfl⟩
    exact ⟨fun b _ => by cases b <;> rfl, rfl, rfl, rfl⟩
  · refine ⟨_, (if_neg hpin).trans (if_pos hlow), ?_, ?_, fun m hm => ?_⟩
    · exact ⟨fun b hb => by cases b <;> simp [sameBlock] at hb ⊢, rfl, rfl, rfl⟩
    · rw [getElem_set_fin, if_pos rfl, if_neg hpin]
      rfl
    · rw [getElem_set_fin, if_neg hm]
      rfl

/-- Settles O5: at the fall of nRESET every block is cleared, and while it is low each command's own test stops it. -/
theorem resetLineHoldsPartSilent : Obligations.ResetLineHoldsPartSilent := by
  refine fun t s => ⟨fun hhigh => ?_, fun hlow => ?_⟩
  · refine ⟨_, if_neg (by simp [hhigh]), rfl, ?_, rfl, rfl, rfl, rfl, rfl⟩
    exact freshBlocks_congr (State.cleared_fresh _ (fun n => (s.probes[n]).pin) (s.advance t)) fun b _ => by
      cases b <;> rfl
  · refine ⟨if_pos hlow, by simp [State.mayTake, hlow], State.arbitrate_of_reset s hlow, fun g => ?_,
      execPinChange_of_reset hlow t⟩
    exact if_pos (by simp [hlow])

/-! ### A command that may reset the part -/

/-- A break leaves every block as it stands but the link, or clears it. -/
theorem State.takeBreak_cases (s : State) :
    freshBlocks (fun n => (s.probes[n]).pin) s.takeBreak ∨
      ∀ b, b ∉ [Block.rx, .interp, .tx] → sameBlock b s s.takeBreak := by
  unfold State.takeBreak
  split
  · have := State.fullReset_fresh s.recoverLink
    simp only [State.recoverLink_frame] at this
    exact .inl this
  · exact .inr fun b hb => by cases b <;> simp [sameBlock] at hb ⊢

/-- What is attached to a frame leaves every block as it stands but the link, or clears it. -/
theorem State.applyAttached_cases (a : Attached) (s : State) :
    freshBlocks (fun n => (s.probes[n]).pin) (s.applyAttached a) ∨
      ∀ b, b ∉ [Block.rx, .interp, .tx] → sameBlock b s (s.applyAttached a) := by
  cases a with
  | nothing => exact .inr fun b _ => by cases b <;> rfl
  | rateSwitch r => exact .inr fun b hb => by cases b <;> simp [sameBlock, State.applyAttached] at hb ⊢
  | fullReset => exact .inl s.fullReset_fresh

/-- After the arbiter's choice the blocks stand as before it, cleared or unchanged. -/
theorem freshBlocks_or_same_arbitrate {pins : Fin 16 → Bool} {s x : State}
    (h : freshBlocks pins x ∨ ∀ b, b ∉ [Block.rx, .interp, .tx] → sameBlock b s x) :
    freshBlocks pins x.arbitrate ∨ ∀ b, b ∉ [Block.rx, .interp, .tx] → sameBlock b s x.arbitrate := by
  refine h.imp (fun h => freshBlocks_congr h fun b hb => State.arbitrate_sameBlock x b ?_) fun h b hb => ?_
  · rintro rfl
    simp at hb
  · have same := h b hb
    cases b <;> simp [sameBlock] at hb same ⊢ <;> exact same

/-- A command that may reach every block clears the part, or leaves every block but the link as it stands. -/
theorem exec_reset_cases {c : Instr} (hc : ownBlocks c = allBlocks) {s s' : State} (h : exec c s = .next s') :
    (∃ pins, freshBlocks pins s') ∨ ∀ b, b ∉ [Block.rx, .interp, .tx] → sameBlock b s s' := by
  have same_advance : ∀ t, (s' = s.advance t) →
      (∃ pins, freshBlocks pins s') ∨ ∀ b, b ∉ [Block.rx, .interp, .tx] → sameBlock b s s' := by
    rintro t rfl
    exact .inr fun b _ => by cases b <;> rfl
  cases c <;> simp [ownBlocks, allBlocks] at hc
  case powerOn t pins rxdLow =>
    cases h
    exact .inl ⟨_, (State.cleared_restarts _ (fun n => pins.getLsbD n.val) _ _).2.1⟩
  case resetLineAssert t =>
    simp only [exec, execResetLineAssert] at h
    split at h <;> cases h
    · exact same_advance t rfl
    · exact .inl ⟨_, freshBlocks_congr (State.cleared_fresh _ (fun n => (s.probes[n]).pin) _) fun b _ => by
        cases b <;> rfl⟩
  case resetLine t rxdLow =>
    simp only [exec, execResetLine] at h
    split at h <;> cases h
    · exact .inl ⟨_, (State.cleared_restarts _ (fun n => (s.probes[n]).pin) _ _).2.1⟩
    · exact same_advance t rfl
  case brk t =>
    simp only [exec, execBrk] at h
    split at h <;> cases h
    · refine (freshBlocks_or_same_arbitrate (State.takeBreak_cases (s.advance t))).imp (fun h => ⟨_, h⟩) fun h b hb => ?_
      have := h b hb
      cases b <;> exact this
    · exact same_advance t rfl
  case frameSent t =>
    simp only [exec, execFrameSent] at h
    split at h
    · cases h
      exact same_advance t rfl
    · split at h <;> cases h
      · refine (freshBlocks_or_same_arbitrate (State.applyAttached_cases _ _)).imp (fun h => ⟨_, h⟩) fun h b hb => ?_
        have := h b hb
        cases b <;> simp at hb <;> exact this
      · exact same_advance t rfl

/-- A law of every command, from what the resets and every other command do to the blocks it is about. -/
theorem exec_keeps {P : State → Prop} {bs : List Block} (hlink : ∀ b ∈ bs, b ∉ [Block.rx, .interp, .tx])
    (hsame : ∀ s s', (∀ b ∈ bs, sameBlock b s s') → P s → P s') (hfresh : ∀ pins s, freshBlocks pins s → P s)
    (hcmd : ∀ c s s', (∃ b ∈ bs, b ∈ touched c) → ownBlocks c ≠ allBlocks → P s → exec c s = .next s' → P s')
    (c : Instr) (s s' : State) (hs : P s) (h : exec c s = .next s') : P s' := by
  by_cases hreset : ownBlocks c = allBlocks
  · rcases exec_reset_cases hreset h with ⟨pins, hf⟩ | hother
    · exact hfresh pins s' hf
    · exact hsame s s' (fun b hb => hother b (hlink b hb)) hs
  · by_cases htouch : ∃ b ∈ bs, b ∈ touched c
    · exact hcmd c s s' htouch hreset hs h
    · exact hsame s s' (fun b hb => exec_sameBlock h fun hm => htouch ⟨b, hb, hm⟩) hs

end Sys2Proof.Machine
end

section
/-! Every step keeps STEADY and PENDING true of the levels of each probe line (spec/02 R20). -/

namespace Sys2Proof.Machine

set_option Elab.async false

/-! ### One line -/

/-- A line after a reset is consistent (spec/02 R31). -/
theorem ProbeLine.afterReset_consistent (b : Bool) : (ProbeLine.afterReset b).consistent := by
  simp [ProbeLine.consistent, ProbeLine.inverted, ProbeLine.afterReset]

/-- A line that takes a level keeps its pin and its settings (spec/02 R24). -/
@[simp] theorem ProbeLine.takeLevel_frame (v : Bool) (p : ProbeLine) :
    (p.takeLevel v).pin = p.pin ∧ (p.takeLevel v).invert = p.invert ∧ (p.takeLevel v).filter = p.filter ∧
      (p.takeLevel v).state = p.state ∧ (p.takeLevel v).level = v := by
  unfold ProbeLine.takeLevel
  split
  · next h => exact ⟨rfl, rfl, rfl, rfl, h⟩
  · exact ⟨rfl, rfl, rfl, rfl, rfl⟩

/-- A line that accepts its pending level is consistent (spec/02 R22 row 4). -/
theorem ProbeLine.accept_consistent (p : ProbeLine) : p.accept.consistent := by
  simp [ProbeLine.consistent, ProbeLine.accept, ProbeLine.inverted]

/-- A line that takes the settings of a SET PROBE is consistent (spec/02 R29). -/
theorem ProbeLine.configure_consistent (now : Nat) (invert : Bool) (filter : Nat) (p : ProbeLine) :
    (p.configure now invert filter).consistent := by
  unfold ProbeLine.configure
  dsimp only
  split
  · next h => exact h
  · next h =>
    split
    · simp [ProbeLine.consistent, ProbeLine.inverted]
    · exact h

/-- A change of the pin of a consistent line leaves it consistent (spec/02 R22 rows 1 to 3). -/
theorem ProbeLine.filterChange_consistent (now : Nat) {p : ProbeLine} {level : Bool} (h : p.consistent)
    (hpin : p.pin ≠ level) : ({ p with pin := level }.filterChange now).consistent := by
  have toggled : level = !p.pin := by cases level <;> cases hp : p.pin <;> simp_all
  unfold ProbeLine.filterChange
  cases hs : p.state with
  | steady =>
    have hlevel : p.inverted = p.level := by simpa [ProbeLine.consistent, hs] using h
    dsimp only
    split
    · simp [ProbeLine.consistent, ProbeLine.inverted]
    · simp [ProbeLine.consistent, ← hlevel, ProbeLine.inverted, toggled]
  | pending start =>
    have hlevel : p.inverted ≠ p.level := by simpa [ProbeLine.consistent, hs] using h
    show (level ^^ p.invert) = p.level
    rw [toggled, Bool.not_xor, Bool.not_eq_eq_eq_not, Bool.eq_not]
    exact hlevel

/-! ### All lines -/

/-- A line takes a value, and no other line is reached (spec/02 R24). -/
@[simp] theorem State.setLine_probes (n : Fin 16) (p : ProbeLine) (s : State) :
    (s.setLine n p).probes = s.probes.set n p := by
  unfold State.setLine
  dsimp only
  split <;> rfl

/-- Whether the lines are consistent depends on the lines alone. -/
theorem State.probesConsistent_congr {a b : State} (h : a.probes = b.probes) :
    a.probesConsistent ↔ b.probesConsistent := by rw [State.probesConsistent, h, State.probesConsistent]

/-- Lines sampled anew are consistent (spec/02 R31). -/
theorem State.probesConsistent_of_afterReset {s : State} {level : Fin 16 → Bool}
    (h : ∀ n : Fin 16, s.probes[n] = ProbeLine.afterReset (level n)) : s.probesConsistent := fun n =>
  h n ▸ ProbeLine.afterReset_consistent _

/-- One line takes a consistent value. -/
theorem State.setLine_probesConsistent {s : State} {p : ProbeLine} (n : Fin 16) (hs : s.probesConsistent)
    (hp : p.consistent) : (s.setLine n p).probesConsistent := by
  intro m
  rw [State.setLine_probes, getElem_set_fin]
  split
  · exact hp
  · exact hs m

/-- The acceptance of a level that has held keeps the lines consistent (spec/02 R22 row 4). -/
theorem State.acceptDue_probesConsistent {s : State} (n : Fin 16) (hs : s.probesConsistent) :
    (s.acceptDue n).probesConsistent := by
  unfold State.acceptDue
  split
  · exact State.setLine_probesConsistent n hs (ProbeLine.accept_consistent _)
  · exact hs

/-- The acceptance of a level that has held leaves the pins (spec/02 R22 row 4). -/
theorem State.acceptDue_pin (s : State) (n m : Fin 16) : ((s.acceptDue n).probes[m]).pin = (s.probes[m]).pin := by
  unfold State.acceptDue
  split
  · simp only [State.setLine_probes, getElem_set_fin]
    split
    · next h => simp [h, ProbeLine.accept]
    · rfl
  · rfl

/-- The lines of a mask take settings one after another and stay consistent (spec/02 R29). -/
theorem State.configureLines_probesConsistent {s : State} (mask : BitVec 16) (invert : Bool) (filter : Nat)
    (hs : s.probesConsistent) : (s.configureLines mask invert filter).probesConsistent := by
  unfold State.configureLines
  generalize allLines = lines
  induction lines generalizing s with
  | nil => exact hs
  | cons n lines ih =>
    refine ih ?_
    dsimp only
    split
    · exact State.setLine_probesConsistent n hs (ProbeLine.configure_consistent _ _ _ _)
    · exact hs

/-- SET PROBE keeps the lines consistent (spec/02 R29). -/
theorem setProbe_probesConsistent (payload : List Byte) {s : State} (hs : s.probesConsistent) :
    (setProbe payload s).1.probesConsistent := by
  unfold setProbe
  split
  · split
    · exact hs
    · exact State.configureLines_probesConsistent _ _ _ hs
  · exact hs

/-- READ PROBES keeps the lines consistent: it clears their marks (spec/02 R30). -/
theorem readProbes_probesConsistent (payload : List Byte) {s : State} (hs : s.probesConsistent) :
    (noParameters readProbes payload s).1.probesConsistent := by
  unfold noParameters
  split
  · intro m
    rw [readProbes_state, getElem_ofFn_fin]
    exact hs m
  · exact hs

/-- PIN_CHANGE keeps the lines consistent (spec/02 R21, R22, R31). -/
theorem execPinChange_probesConsistent {t : Nat} {line : Fin 16} {level : Bool} {s s' : State}
    (hs : s.probesConsistent) (h : execPinChange t line level s = .next s') : s'.probesConsistent := by
  unfold execPinChange at h
  dsimp only at h
  split at h
  · cases h
    exact hs
  · next hpin =>
    split at h
    · cases h
      intro m
      rw [getElem_set_fin]
      split
      · rfl
      · exact hs m
    · cases h
      have accepted : ((s.advance t).acceptDue line).probesConsistent := State.acceptDue_probesConsistent line hs
      refine State.setLine_probesConsistent line accepted (ProbeLine.filterChange_consistent _ (accepted line) ?_)
      rw [State.acceptDue_pin]
      exact hpin

/-- Every command keeps the probe lines consistent. -/
theorem exec_probesConsistent (c : Instr) (s s' : State) (hs : s.probesConsistent) (h : exec c s = .next s') :
    s'.probesConsistent := by
  refine exec_keeps (P := State.probesConsistent) (bs := [.probes]) (by simp) ?same ?fresh ?command c s s' hs h
  case same => exact fun s s' same hs => (State.probesConsistent_congr (same .probes (by simp))).mpr hs
  case fresh => exact fun pins s fresh => State.probesConsistent_of_afterReset fresh.1
  case command =>
    intro c s s' htouched hreset hs h
    have taking : ∀ {row body t}, (∀ p x, x.probesConsistent → (body p x).1.probesConsistent) →
        ((s.advance t).takeRequest row body).probesConsistent := fun {row body t} hbody =>
      State.takeRequest_keeps hs (fun _ => hs) hbody (fun _ _ _ _ hx => hx)
        fun x hx => (State.probesConsistent_congr (by simp)).mpr hx
    cases c <;> simp [touched, ownBlocks, takingOf] at htouched hreset
    case pinChange => exact execPinChange_probesConsistent hs h
    case filterExpiry =>
      cases h
      exact State.acceptDue_probesConsistent _ hs
    case setProbe =>
      cases h
      exact taking fun p x hx => setProbe_probesConsistent p hx
    case readProbes =>
      cases h
      exact taking fun p x hx => readProbes_probesConsistent p hx

/-- Settles O7: every command keeps the lines consistent, by the rows of the filter. -/
theorem stepKeepsProbesConsistent : Obligations.StepKeepsProbesConsistent := fun _ _ =>
  step_keeps exec_probesConsistent (fun _ _ hs => hs) (fun _ _ hs => hs)

end Sys2Proof.Machine
end

section
/-! The layout of a step record's bytes (spec/10 10.5, R178): optional fields one directly after another, the lanes and the
header made of them, and what DEFINE STEP reads from them. -/

namespace Sys2Proof.Machine

set_option Elab.async false

/-! ### Numbers in bytes (spec/10 R175) -/

/-- `k` bytes carry a number below 256^k. -/
theorem ofLeBytes_lt (bs : List Byte) : ofLeBytes bs < 256 ^ bs.length := by
  induction bs with
  | nil => simp [ofLeBytes]
  | cons b bs ih =>
    have hb : b.toNat < 256 := b.isLt
    rw [ofLeBytes, List.length_cons, pow_succ']
    omega

/-- At most `k` bytes carry a number below 256^k. -/
theorem ofLeBytes_take_lt (k : Nat) (bs : List Byte) : ofLeBytes (bs.take k) < 256 ^ k :=
  (ofLeBytes_lt _).trans_le (Nat.pow_le_pow_right (by omega) (List.length_take_le k bs))

/-! ### Optional fields one directly after another -/

/-- The bytes that one optional field takes. -/
def partSize (p : Bool × Nat) : Nat := if p.1 then p.2 else 0

@[simp] theorem Parts.size_nil : Parts.size [] = 0 := rfl

@[simp] theorem Parts.size_cons (p : Bool × Nat) (ps : Parts) : Parts.size (p :: ps) = partSize p + Parts.size ps := by
  simp [Parts.size, partSize]

/-- The first field stands at the start. -/
theorem Parts.field_zero (p : Bool × Nat) (ps : Parts) (start : Nat) (b : List Byte) :
    Parts.field (p :: ps) start 0 b = if p.1 then some (ofLeBytes ((b.drop start).take p.2)) else none := by
  simp [Parts.field]

/-- A later field stands among the rest, which start after the first. -/
theorem Parts.field_succ (p : Bool × Nat) (ps : Parts) (start k : Nat) (b : List Byte) :
    Parts.field (p :: ps) start (k + 1) b = Parts.field ps (start + partSize p) k b := by
  simp [Parts.field, Nat.add_assoc]

/-- The fields of bytes from an offset on. -/
theorem Parts.field_drop (ps : Parts) (start more k : Nat) (b : List Byte) :
    Parts.field ps more k (b.drop start) = Parts.field ps (start + more) k b := by
  simp [Parts.field, Nat.add_assoc]

/-- A field present is a number of its size. -/
theorem Parts.field_lt {ps : Parts} {start k x : Nat} {b : List Byte} {p : Bool × Nat} (hp : ps[k]? = some p)
    (h : Parts.field ps start k b = some x) : x < 256 ^ p.2 := by
  simp only [Parts.field, hp, Option.bind_some] at h
  split at h
  · cases h
    exact ofLeBytes_take_lt _ _
  · cases h

/-- Fields do not depend on the bytes after them. -/
theorem Parts.field_take (ps : Parts) {start m : Nat} (k : Nat) {b : List Byte} (hm : start + ps.size ≤ m) :
    Parts.field ps start k (b.take m) = Parts.field ps start k b := by
  induction ps generalizing start k with
  | nil => simp [Parts.field]
  | cons p ps ih =>
    rw [Parts.size_cons] at hm
    cases k with
    | zero =>
      rw [Parts.field_zero, Parts.field_zero]
      split
      · next hp =>
        have hsize : partSize p = p.2 := by simp [partSize, hp]
        rw [List.drop_take, List.take_take, Nat.min_eq_left (by omega)]
      · rfl
    | succ k =>
      rw [Parts.field_succ, Parts.field_succ]
      exact ih k (by omega)

/-- Optional fields read one after another. -/
def readParts : Parts → List Byte → Option (List (Option Nat) × List Byte)
  | [], bs => some ([], bs)
  | p :: ps, bs => (readIf p.1 p.2 bs).bind fun (x, r) => (readParts ps r).map fun (xs, r') => (x :: xs, r')

/-- One optional field is read where its bytes are there. -/
theorem readIf_eq (p : Bool × Nat) (bs : List Byte) :
    readIf p.1 p.2 bs =
      if partSize p ≤ bs.length then
        some (if p.1 then some (ofLeBytes (bs.take p.2)) else none, bs.drop (partSize p))
      else none := by
  obtain ⟨present, n⟩ := p
  cases present with
  | false => simp [readIf, partSize]
  | true =>
    simp only [readIf, partSize, readNum, if_true]
    split <;> rfl

/-- Optional fields are read where the bytes of all are there, each from its place. -/
theorem readParts_eq (ps : Parts) (bs : List Byte) :
    readParts ps bs =
      if ps.size ≤ bs.length then
        some ((List.range ps.length).map fun k => Parts.field ps 0 k bs, bs.drop ps.size)
      else none := by
  induction ps generalizing bs with
  | nil => simp [readParts]
  | cons p ps ih =>
    have htotal : Parts.size (p :: ps) ≤ bs.length ↔ partSize p ≤ bs.length ∧ Parts.size ps ≤ bs.length - partSize p := by
      rw [Parts.size_cons]
      omega
    rw [readParts, readIf_eq]
    by_cases hp : partSize p ≤ bs.length
    · rw [if_pos hp, Option.bind_some]
      dsimp only
      rw [ih, List.length_drop]
      by_cases hps : Parts.size ps ≤ bs.length - partSize p
      · rw [if_pos hps, if_pos (htotal.mpr ⟨hp, hps⟩), Option.map_some, List.drop_drop, ← Parts.size_cons,
          List.length_cons, List.range_succ_eq_map, List.map_cons, List.map_map, Parts.field_zero, List.drop_zero]
        congr 3
        refine List.map_congr_left fun k _ => ?_
        rw [Function.comp_apply, Nat.succ_eq_add_one, Parts.field_succ, Parts.field_drop, Nat.zero_add, Nat.add_zero]
      · rw [if_neg hps, if_neg fun h => hps (htotal.mp h).2]
        rfl
    · rw [if_neg hp, if_neg fun h => hp (htotal.mp h).1]
      rfl

/-- The fields read from an offset on are those at their places. -/
theorem Parts.fields_getD (ps : Parts) (start k : Nat) (b : List Byte) :
    ((List.range ps.length).map fun k => Parts.field ps 0 k (b.drop start)).getD k none = Parts.field ps start k b := by
  rw [List.getD_eq_getElem?_getD, List.getElem?_map]
  by_cases hk : k < ps.length
  · rw [List.getElem?_range hk, Option.map_some, Option.getD_some, Parts.field_drop, Nat.add_zero]
  · rw [List.getElem?_eq_none (by simpa using hk), Parts.field, List.getElem?_eq_none (by omega)]
    rfl

/-! ### A lane (spec/10 10.5) -/

/-- The raw lane that a lane's first three bytes and its optional fields give. -/
def rawLaneOf (b : List Byte) (field : Nat → Option Nat) : RawLane :=
  { unit := fieldOf (b.getD 0 0) 0 4, mode := fieldOf (b.getD 0 0) 4 2, startKind := fieldOf (b.getD 0 0) 6 2,
    slot := fieldOf (b.getD 1 0) 0 5, stopKind := fieldOf (b.getD 1 0) 5 2, data := field 0, clock := field 1,
    qualifier := field 2, startLine := field 3,
    stopParam := if fieldOf (b.getD 1 0) 5 2 = 0 then field 4 else field 5, sampleLimit := field 6,
    expectedResidue := field 7, countMin := field 8, countMax := field 9 }

/-- The start kind is the two highest bits of the first byte. -/
theorem fieldOf_six (b : Byte) : fieldOf b 6 2 = b.toNat / 64 := by
  have : b.toNat < 256 := b.isLt
  simp only [fieldOf]
  omega

/-- Optional fields are read with the first one first. -/
theorem readParts_cons_bind {α : Type} (p : Bool × Nat) (ps : Parts) (bs : List Byte)
    (g : List (Option Nat) × List Byte → Option α) :
    (readParts (p :: ps) bs).bind g =
      (readIf p.1 p.2 bs).bind fun x => (readParts ps x.2).bind fun y => g (x.1 :: y.1, y.2) := by
  rw [readParts, Option.bind_assoc]
  refine congrArg _ (funext fun x => ?_)
  dsimp only
  rw [Option.map_eq_bind, Option.bind_assoc]
  rfl

/-- The stop parameter is a stop line or a stop count, by the stop kind (spec/10 R178). -/
theorem readIf_stop {α : Type} (kind : Nat) (bs : List Byte) (g : Option Nat × List Byte → Option α) :
    (readIf (decide (kind < 2)) (stopParamBytes kind) bs).bind g =
      (readIf (decide (kind = 0)) 1 bs).bind fun x =>
        (readIf (decide (kind = 1)) 4 x.2).bind fun y => g (if kind = 0 then x.1 else y.1, y.2) := by
  rcases (by omega : kind = 0 ∨ kind = 1 ∨ 2 ≤ kind) with rfl | rfl | h
  · exact congrArg _ (funext fun x => rfl)
  · rfl
  · simp [readIf, show ¬kind < 2 by omega, show kind ≠ 0 by omega, show kind ≠ 1 by omega]

/-- A lane is read from its optional fields. -/
theorem readLane_cons (b0 b1 b2 : Byte) (r0 : List Byte) :
    readLane (b0 :: b1 :: b2 :: r0) =
      (readParts (laneParts (b0 :: b1 :: b2 :: r0)) r0).map fun x =>
        (rawLaneOf (b0 :: b1 :: b2 :: r0) fun k => x.1.getD k none, x.2) := by
  simp only [laneParts, bitAt, List.getD_cons_zero, List.getD_cons_succ, ← fieldOf_six, Option.map_eq_bind,
    readParts_cons_bind]
  simp only [readLane, readIf_stop, Option.map_eq_bind]
  repeat refine congrArg _ (funext fun _ => ?_)
  rfl

/-- Bytes too short for a lane's first three are no lane. -/
theorem readLane_of_short {b : List Byte} (h : b.length < 3) : readLane b = none := by
  match b, h with
  | [], _ => rfl
  | [_], _ => rfl
  | [_, _], _ => rfl

/-- A lane at the front is read where its declared length is there, each field from its place. -/
theorem readLane_eq (b : List Byte) :
    readLane b =
      if laneLength b ≤ b.length then some (rawLaneOf b fun k => (laneParts b).field 3 k b, b.drop (laneLength b))
      else none := by
  match b with
  | [] | [_] | [_, _] =>
    rw [readLane_of_short (by simp), if_neg]
    simp only [laneLength, List.length_cons, List.length_nil]
    omega
  | b0 :: b1 :: b2 :: r0 =>
    have hread := readLane_cons b0 b1 b2 r0
    have hdrop : r0 = (b0 :: b1 :: b2 :: r0).drop 3 := rfl
    have hlen : laneLength (b0 :: b1 :: b2 :: r0) ≤ (b0 :: b1 :: b2 :: r0).length ↔
        (laneParts (b0 :: b1 :: b2 :: r0)).size ≤ r0.length := by
      simp only [laneLength, List.length_cons]
      omega
    generalize b0 :: b1 :: b2 :: r0 = b at hread hdrop hlen ⊢
    rw [hread, readParts_eq]
    by_cases hsize : (laneParts b).size ≤ r0.length
    · rw [if_pos hsize, if_pos (hlen.mpr hsize), hdrop, List.drop_drop]
      simp only [Option.map_some, Parts.fields_getD]
      rfl
    · rw [if_neg hsize, if_neg fun h => hsize (hlen.mp h)]
      rfl

/-- The first three bytes give the lane's presence bits. -/
theorem laneParts_take (b : List Byte) : laneParts (b.take (laneLength b)) = laneParts b := by
  have hget : ∀ k < 3, (b.take (laneLength b)).getD k 0 = b.getD k 0 := by
    intro k hk
    have : k < laneLength b := by
      simp only [laneLength]
      omega
    simp only [List.getD_eq_getElem?_getD, List.getElem?_take_of_lt this]
  simp only [laneParts, bitAt, hget 0 (by decide), hget 1 (by decide), hget 2 (by decide)]

/-- The raw lane that is read has its fields at their places. -/
theorem rawLaneOf_carried (b : List Byte) :
    laneCarried (rawLaneOf b fun k => (laneParts b).field 3 k b) (b.take (laneLength b)) := by
  have hget : ∀ k < 3, (b.take (laneLength b)).getD k 0 = b.getD k 0 := by
    intro k hk
    have : k < laneLength b := by
      simp only [laneLength]
      omega
    simp only [List.getD_eq_getElem?_getD, List.getElem?_take_of_lt this]
  have hfield : ∀ k, (laneParts b).field 3 k (b.take (laneLength b)) = (laneParts b).field 3 k b := fun k =>
    Parts.field_take _ k (Nat.le_refl _)
  simp only [laneCarried, laneParts_take, hget 0 (by decide), hget 1 (by decide), hfield]
  refine ⟨?_, rfl, fieldOf_six _, ?_, rfl, rfl, rfl, rfl, rfl, rfl, rfl, rfl, rfl, rfl⟩ <;> simp [rawLaneOf, fieldOf]

/-- The numbers of a raw lane that take four bytes are below 2^32. -/
structure RawLane.Bounded (l : RawLane) : Prop where
  stopParam : ∀ n, l.stopParam = some n → n < 2 ^ 32
  sampleLimit : ∀ n, l.sampleLimit = some n → n < 2 ^ 32
  countMax : ∀ n, l.countMax = some n → n < 2 ^ 32

/-- A lane read from bytes has bounded numbers. -/
theorem rawLaneOf_bounded (b : List Byte) : (rawLaneOf b fun k => (laneParts b).field 3 k b).Bounded := by
  have four : ∀ {k n p}, (laneParts b)[k]? = some p → p.2 = 4 → (laneParts b).field 3 k b = some n → n < 2 ^ 32 :=
    fun hp h4 hn => (Parts.field_lt hp hn).trans_eq (by rw [h4]; norm_num)
  refine ⟨fun n hn => ?_, fun n hn => four (k := 6) rfl rfl hn, fun n hn => four (k := 9) rfl rfl hn⟩
  simp only [rawLaneOf] at hn
  split at hn
  · exact (Parts.field_lt (k := 4) rfl hn).trans_le (by norm_num)
  · exact four (k := 5) rfl rfl hn

/-! ### Lanes one directly after another (spec/10 R178) -/

/-- Lanes are read with the first one first. -/
theorem readLanes_succ (n : Nat) (b : List Byte) :
    readLanes (n + 1) b =
      if laneLength b ≤ b.length then
        (readLanes n (b.drop (laneLength b))).map fun x =>
          ((rawLaneOf b fun k => (laneParts b).field 3 k b) :: x.1, x.2)
      else none := by
  rw [readLanes, readLane_eq]
  split <;> rfl

/-- Lanes of their declared lengths, with no byte left over, are read, each from its place. -/
theorem readLanes_of_fit {n : Nat} {b : List Byte} (h : lanesFit n b) :
    ∃ ls, readLanes n b = some (ls, []) ∧ ls.length = n ∧ lanesStand laneCarried ls b := by
  induction n generalizing b with
  | zero =>
    obtain rfl : b = [] := h
    exact ⟨[], rfl, rfl, rfl⟩
  | succ n ih =>
    obtain ⟨hlen, hrest⟩ := h
    obtain ⟨ls, hread, hcount, hstand⟩ := ih hrest
    exact ⟨_ :: ls, by rw [readLanes_succ, if_pos hlen, hread]; rfl, by simp [hcount],
      rawLaneOf_carried b, hstand⟩

/-- Lanes read with no byte left over have their declared lengths; there are as many as asked for, with bounded numbers. -/
theorem readLanes_fit {n : Nat} {b : List Byte} {ls : List RawLane} (h : readLanes n b = some (ls, [])) :
    lanesFit n b ∧ ls.length = n ∧ ∀ l ∈ ls, l.Bounded := by
  induction n generalizing b ls with
  | zero =>
    cases h
    exact ⟨rfl, rfl, by simp⟩
  | succ n ih =>
    rw [readLanes_succ] at h
    split at h
    · next hlen =>
      obtain ⟨⟨ls', r⟩, hread, heq⟩ := Option.map_eq_some_iff.mp h
      obtain ⟨rfl, rfl⟩ := Prod.mk.inj heq
      obtain ⟨hfit, hcount, hbound⟩ := ih hread
      exact ⟨⟨hlen, hfit⟩, by simp [hcount], List.forall_mem_cons.mpr ⟨rawLaneOf_bounded b, hbound⟩⟩
    · cases h

/-! ### A step record (spec/10 10.5) -/

/-- The raw step that a step record's first eight bytes, its optional fields and its lanes give. -/
def rawStepOf (b : List Byte) (field : Nat → Option Nat) (lanes : List RawLane) : RawStep :=
  { number := (b.getD 0 0).toNat, laneCount := (b.getD 1 0).toNat, label := ofLeBytes ((b.drop 2).take 2),
    timeLimit := ofLeBytes ((b.drop 4).take 2), onFail := (b.getD 6 0).toNat, settle := field 0, pattern := field 1,
    retryLimit := field 2, exhaust := field 3, lanes := lanes }

/-- A step record is read from its optional fields and its lanes, with no byte left over. -/
theorem readStepPayload_eq (b : List Byte) :
    readStepPayload b =
      if headerLength b ≤ b.length then
        (readLanes (b.getD 1 0).toNat (b.drop (headerLength b))).bind fun x =>
          if x.2.isEmpty then some (rawStepOf b (fun k => (headerParts b).field 8 k b) x.1) else none
      else none := by
  match b with
  | [] | [_] | [_, _] | [_, _, _] | [_, _, _, _] | [_, _, _, _, _] | [_, _, _, _, _, _] | [_, _, _, _, _, _, _] =>
    rw [if_neg]
    · rfl
    · simp only [headerLength, List.length_cons, List.length_nil]
      omega
  | b0 :: b1 :: b2 :: b3 :: b4 :: b5 :: b6 :: b7 :: r0 =>
    have hparts : readStepPayload (b0 :: b1 :: b2 :: b3 :: b4 :: b5 :: b6 :: b7 :: r0) =
        (readParts (headerParts (b0 :: b1 :: b2 :: b3 :: b4 :: b5 :: b6 :: b7 :: r0)) r0).bind fun x =>
          (readLanes b1.toNat x.2).bind fun y =>
            if y.2.isEmpty then
              some (rawStepOf (b0 :: b1 :: b2 :: b3 :: b4 :: b5 :: b6 :: b7 :: r0) (fun k => x.1.getD k none) y.1)
            else none := by
      simp only [headerParts, bitAt, List.getD_cons_zero, List.getD_cons_succ, readParts_cons_bind]
      rfl
    have hlen : headerLength (b0 :: b1 :: b2 :: b3 :: b4 :: b5 :: b6 :: b7 :: r0) ≤
        (b0 :: b1 :: b2 :: b3 :: b4 :: b5 :: b6 :: b7 :: r0).length ↔
        (headerParts (b0 :: b1 :: b2 :: b3 :: b4 :: b5 :: b6 :: b7 :: r0)).size ≤ r0.length := by
      simp only [headerLength, List.length_cons]
      omega
    have hdrop : r0 = (b0 :: b1 :: b2 :: b3 :: b4 :: b5 :: b6 :: b7 :: r0).drop 8 := rfl
    have hcount : b1.toNat = ((b0 :: b1 :: b2 :: b3 :: b4 :: b5 :: b6 :: b7 :: r0).getD 1 0).toNat := rfl
    generalize b0 :: b1 :: b2 :: b3 :: b4 :: b5 :: b6 :: b7 :: r0 = b at hparts hlen hdrop hcount ⊢
    rw [hparts, readParts_eq, hcount]
    by_cases hsize : (headerParts b).size ≤ r0.length
    · rw [if_pos hsize, if_pos (hlen.mpr hsize), hdrop, List.drop_drop, Option.bind_some]
      simp only [Parts.fields_getD]
      rfl
    · rw [if_neg hsize, if_neg fun h => hsize (hlen.mp h)]
      rfl

/-- A payload of its declared length is read, with every field from its place; any other is not (R178). -/
theorem readStepPayload_of_fits {b : List Byte} (h : stepFits b) :
    ∃ raw, readStepPayload b = some raw ∧ stepCarried raw b := by
  obtain ⟨hlen, hfit⟩ := h
  obtain ⟨ls, hread, hcount, hstand⟩ := readLanes_of_fit hfit
  refine ⟨rawStepOf b (fun k => (headerParts b).field 8 k b) ls, ?_, rfl, rfl, rfl, rfl, rfl, rfl, rfl, rfl, rfl,
    hcount, hstand⟩
  rw [readStepPayload_eq, if_pos hlen, hread]
  rfl

/-- What is read of a payload: it has its declared length, and numbers that fit their bytes. -/
theorem readStepPayload_fits {b : List Byte} {raw : RawStep} (h : readStepPayload b = some raw) :
    stepFits b ∧ raw.lanes.length = raw.laneCount ∧ raw.timeLimit < 2 ^ 16 ∧
      (∀ n, raw.settle = some n → n < 2 ^ 16) ∧ ∀ l ∈ raw.lanes, l.Bounded := by
  rw [readStepPayload_eq] at h
  split at h
  · next hlen =>
    obtain ⟨⟨ls, r⟩, hread, heq⟩ := Option.bind_eq_some_iff.mp h
    dsimp only at heq
    split at heq
    · next hempty =>
      cases heq
      obtain rfl : r = [] := List.isEmpty_iff.mp hempty
      obtain ⟨hfit, hcount, hbound⟩ := readLanes_fit hread
      have settle : ∀ n, (headerParts b).field 8 0 b = some n → n < 2 ^ 16 := fun n hn =>
        (Parts.field_lt (p := (bitAt b 7 0, 2)) rfl hn).trans_eq (by norm_num)
      exact ⟨⟨hlen, hfit⟩, hcount, (ofLeBytes_take_lt 2 _).trans_eq (by norm_num), settle, hbound⟩
    · cases heq
  · cases h

/-- A payload of another length than the one it declares is not read (R178). -/
theorem readStepPayload_of_not_fits {b : List Byte} (h : ¬stepFits b) : readStepPayload b = none := by
  cases hread : readStepPayload b with
  | none => rfl
  | some raw => exact absurd (readStepPayload_fits hread).1 h

end Sys2Proof.Machine
end

section
/-! The checks of a step record (spec/04 R71 to R73), each said once: what a checked field is, that a lane fails exactly on
one of its faults, and that what passes is well formed. -/

namespace Sys2Proof.Machine

set_option Elab.async false

/-! ### Line-sense bytes (spec/10 10.5 note 1) -/

/-- A line and a sense are read where neither is out of range. -/
theorem lineSense_eq_some {n : Nat} {x : Fin 16 × Bool} :
    lineSense n = some x ↔ ¬senseFault n ∧ x.1.val = n % 32 ∧ x.2 = decide (n / 32 % 4 = 1) := by
  obtain ⟨line, sense⟩ := x
  unfold lineSense senseFault
  split
  · next hline =>
    split
    · next hsense =>
      simp only [Option.some.injEq, Prod.mk.injEq, Fin.ext_iff]
      exact ⟨fun ⟨h1, h2⟩ => ⟨by omega, h1.symm, h2.symm⟩, fun ⟨_, h1, h2⟩ => ⟨h1.symm, h2.symm⟩⟩
    · exact ⟨nofun, fun h => absurd h.1 (by omega)⟩
  · exact ⟨nofun, fun h => absurd h.1 (by omega)⟩

/-- A line and an edge are read where neither is out of range. -/
theorem lineEdgeOf_eq_some {n : Nat} {e : LineEdge} : lineEdgeOf n = some e ↔ ¬senseFault n ∧ namesEdge n e := by
  rw [lineEdgeOf, Option.map_eq_some_iff]
  constructor
  · rintro ⟨x, hx, rfl⟩
    obtain ⟨hfault, hline, hsense⟩ := lineSense_eq_some.mp hx
    refine ⟨hfault, hline, ?_⟩
    simp only [senseFault] at hfault
    simp only [hsense, decide_eq_true_eq]
    rcases (by omega : n / 32 % 4 = 0 ∨ n / 32 % 4 = 1) with h | h <;> simp [h]
  · rintro ⟨hfault, hline, hedge⟩
    refine ⟨(e.line, decide (n / 32 % 4 = 1)), lineSense_eq_some.mpr ⟨hfault, hline, rfl⟩, ?_⟩
    simp only [senseFault] at hfault
    obtain ⟨line, edge⟩ := e
    simp only [LineEdge.mk.injEq, true_and, decide_eq_true_eq] at hedge ⊢
    rw [hedge]
    rcases (by omega : n / 32 % 4 = 0 ∨ n / 32 % 4 = 1) with h | h <;> simp [h]

/-- A line and a level are read where neither is out of range. -/
theorem lineLevelOf_eq_some {n : Nat} {q : LineLevel} :
    lineLevelOf n = some q ↔ ¬senseFault n ∧ q.line.val = n % 32 ∧ q.high = decide (n / 32 % 4 = 1) := by
  rw [lineLevelOf, Option.map_eq_some_iff]
  constructor
  · rintro ⟨x, hx, rfl⟩
    exact lineSense_eq_some.mp hx
  · exact fun h => ⟨(q.line, q.high), lineSense_eq_some.mpr h, rfl⟩

/-- A line-sense byte in range names a line and an edge. -/
theorem exists_lineEdgeOf {n : Nat} (h : ¬senseFault n) : ∃ e, lineEdgeOf n = some e := by
  have hline : n % 32 < 16 := by
    simp only [senseFault] at h
    omega
  exact ⟨⟨⟨n % 32, hline⟩, if n / 32 % 4 = 0 then .rising else .falling⟩, lineEdgeOf_eq_some.mpr ⟨h, rfl, rfl⟩⟩

/-- A line-sense byte in range names a line and a level. -/
theorem exists_lineLevelOf {n : Nat} (h : ¬senseFault n) : ∃ q, lineLevelOf n = some q := by
  have hline : n % 32 < 16 := by
    simp only [senseFault] at h
    omega
  exact ⟨⟨⟨n % 32, hline⟩, decide (n / 32 % 4 = 1)⟩, lineLevelOf_eq_some.mpr ⟨h, rfl, rfl⟩⟩

/-! ### The mode, the start and the stop of a lane (spec/04 R64 to R66) -/

/-- The probe fields: data, clock and, where it is present, a qualifier. -/
theorem probeFields_eq_some {l : RawLane} {p : ProbeInput} :
    probeFields l = some p ↔
      (∃ d, l.data = some d ∧ p.data = BitVec.ofNat 16 d) ∧ (∃ n, l.clock = some n ∧ lineEdgeOf n = some p.clock) ∧
        (l.qualifier = none ∧ p.qualifier = none ∨
          ∃ n q, l.qualifier = some n ∧ p.qualifier = some q ∧ lineLevelOf n = some q) := by
  obtain ⟨data, clock, qualifier⟩ := p
  unfold probeFields
  cases hd : l.data with
  | none => simp
  | some d =>
    cases hc : l.clock with
    | none => simp
    | some n =>
      cases he : lineEdgeOf n with
      | none => simp [he]
      | some e =>
        cases hq : l.qualifier with
        | none => simp [he, eq_comm]
        | some m => cases hl : lineLevelOf m <;> simp [he, hl, eq_comm]

/-- The mode by its code, with the fields that it holds. -/
theorem modeOf_eq_some {l : RawLane} {m : LaneMode} (hmode : l.mode < 3) :
    modeOf l = some m ↔
      (l.mode = 0 ∧ ∃ p, probeFields l = some p ∧ m = .serial p) ∨
      (l.mode = 1 ∧ ∃ p, probeFields l = some p ∧ m = .parallel p) ∨
      (l.mode = 2 ∧ m = .host ∧ l.data = none ∧ l.clock = none ∧ l.qualifier = none) := by
  unfold modeOf
  rcases (by omega : l.mode = 0 ∨ l.mode = 1 ∨ l.mode = 2) with h | h | h
  · simp [h, eq_comm]
  · simp [h, eq_comm]
  · cases l.data <;> cases l.clock <;> cases l.qualifier <;> simp [h, eq_comm]

/-- The start by its kind. -/
theorem startOf_eq_some {m : LaneMode} {l : RawLane} {st : StartKind} :
    startOf m l = some st ↔
      (l.startKind = 0 ∧ st = .immediate) ∨
      (l.startKind = 1 ∧ m ≠ .host ∧ ∃ n e, l.startLine = some n ∧ lineEdgeOf n = some e ∧ st = .edge e) ∨
      (l.startKind = 2 ∧ st = .host) := by
  unfold startOf
  split
  · next h => simp [h, eq_comm]
  · next h =>
    by_cases hm : m = .host
    · simp [h, hm]
    · cases hs : l.startLine <;> simp [h, hm, eq_comm]
  · next h => simp [h, eq_comm]
  · next h0 h1 h2 => exact ⟨nofun, by rintro (⟨h, -⟩ | ⟨h, -⟩ | ⟨h, -⟩) <;> exact absurd h ‹_›⟩

/-- The stop by its kind. -/
theorem stopOf_eq_some {m : LaneMode} {l : RawLane} {sp : StopKind} :
    stopOf m l = some sp ↔
      (l.stopKind = 0 ∧ m ≠ .host ∧ ∃ n e, l.stopParam = some n ∧ lineEdgeOf n = some e ∧ sp = .edge e) ∨
      (l.stopKind = 1 ∧ ∃ n, l.stopParam = some n ∧ n ≠ 0 ∧ sp = .count n) ∨
      (l.stopKind = 2 ∧ sp = .host) := by
  unfold stopOf
  split
  · next h =>
    by_cases hm : m = .host
    · simp [h, hm]
    · cases hs : l.stopParam <;> simp [h, hm, eq_comm]
  · next h =>
    cases hs : l.stopParam with
    | none => simp [h]
    | some n => by_cases hn : n = 0 <;> simp [h, hn, eq_comm]
  · next h => simp [h, eq_comm]
  · next h0 h1 h2 => exact ⟨nofun, by rintro (⟨h, -⟩ | ⟨h, -⟩ | ⟨h, -⟩) <;> exact absurd h ‹_›⟩

/-! ### A lane (spec/04 R72, R73) -/

/-- The count range of a lane whose bytes give both ends. -/
def countRangeOf (l : RawLane) : Option CountRange :=
  match l.countMin, l.countMax with
  | some lo, some hi => some { min := lo, max := hi }
  | _, _ => none

/-- The conditions of checks 5 to 12 that a lane has passed, with the mode, the start and the stop they give. -/
structure LanePasses (w : Nat) (l : RawLane) (m : LaneMode) (st : StartKind) (sp : StopKind) : Prop where
  modeCode : l.mode < 3
  mode : modeOf l = some m
  start : startOf m l = some st
  stop : stopOf m l = some sp
  limit : l.sampleLimit ≠ some 0
  data : dataSetFits m w = true
  residue : ∀ x, l.expectedResidue = some x → x < 2 ^ w
  count : ∀ lo hi, l.countMin = some lo → l.countMax = some hi → lo ≤ hi

/-- The lane that checks 5 to 12 make of a raw lane. -/
def laneMade (u : Fin 8) (k : Fin 16) (l : RawLane) (m : LaneMode) (st : StartKind) (sp : StopKind) : Lane :=
  { unit := u, profile := k, mode := m, start := st, stop := sp, sampleLimit := l.sampleLimit,
    expectedResidue := l.expectedResidue.map (BitVec.ofNat 32), expectedCount := countRangeOf l }

/-- Checks 5 to 12 make a lane exactly of what passes them. -/
theorem laneFields_eq_some {u : Fin 8} {k : Fin 16} {w : Nat} {l : RawLane} {x : Lane} :
    laneFields u k w l = some x ↔ ∃ m st sp, LanePasses w l m st sp ∧ x = laneMade u k l m st sp := by
  constructor
  · intro h
    unfold laneFields at h
    split at h
    · cases h
    · next hmode =>
      obtain ⟨m, hm, h⟩ := Option.bind_eq_some_iff.mp h
      obtain ⟨st, hst, h⟩ := Option.bind_eq_some_iff.mp h
      obtain ⟨sp, hsp, h⟩ := Option.bind_eq_some_iff.mp h
      split at h
      · cases h
      · next hlimit =>
        split at h
        · cases h
        · next hdata =>
          split at h
          · cases h
          · next hresidue =>
            have passes : (∀ lo hi, l.countMin = some lo → l.countMax = some hi → lo ≤ hi) → LanePasses w l m st sp :=
              fun hcount =>
              { modeCode := by omega, mode := hm, start := hst, stop := hsp, limit := hlimit
                data := by simpa using hdata, residue := fun x hx => by simpa [hx] using hresidue, count := hcount }
            refine ⟨m, st, sp, ?_⟩
            split at h
            · next lo hi hlo hhi =>
              split at h
              · cases h
              · next hle =>
                cases h
                refine ⟨passes fun a b ha hb => ?_, by simp [laneMade, countRangeOf, hlo, hhi]⟩
                rw [hlo] at ha
                rw [hhi] at hb
                cases ha
                cases hb
                omega
            · next hnone =>
              cases h
              refine ⟨passes fun a b ha hb => absurd hb (hnone a b ha), ?_⟩
              have hrange : countRangeOf l = none := by
                unfold countRangeOf
                split
                · next lo hi hlo hhi => exact absurd hhi (hnone lo hi hlo)
                · rfl
              simp [laneMade, hrange]
  · rintro ⟨m, st, sp, h, rfl⟩
    have hmode : ¬3 ≤ l.mode := by
      have := h.modeCode
      omega
    have hresidue : ¬(l.expectedResidue.any fun x => decide (2 ^ w ≤ x)) = true := by
      cases hx : l.expectedResidue with
      | none => simp
      | some x => simpa using h.residue x hx
    unfold laneFields
    simp only [if_neg hmode, h.mode, h.start, h.stop, Option.bind_some, if_neg h.limit, h.data, if_neg hresidue,
      Bool.true_eq_false, if_false]
    split
    · next lo hi hlo hhi =>
      rw [if_neg (by have := h.count lo hi hlo hhi; omega)]
      simp [laneMade, countRangeOf, hlo, hhi]
    · next hnone =>
      have hrange : countRangeOf l = none := by
        unfold countRangeOf
        split
        · next lo hi hlo hhi => exact absurd hhi (hnone lo hi hlo)
        · rfl
      simp [laneMade, hrange]

/-- The lines that a data set names, counted in the number that carries it. -/
theorem lineCount_ofNat (d : Nat) : lineCount (BitVec.ofNat 16 d) = linesNamed d := by
  rw [lineCount, linesNamed, ← List.countP_eq_length_filter]
  refine List.countP_congr fun i hi => ?_
  rw [BitVec.getLsbD_ofNat, decide_eq_true (List.mem_range.mp hi), Bool.true_and]

/-- Without a fault of the mode code and the probe fields the mode is read. -/
theorem exists_modeOf {w : Nat} {l : RawLane} (h : ¬LaneFault w l) : l.mode < 3 ∧ ∃ m, modeOf l = some m := by
  have hmode : l.mode < 3 := by
    by_contra hm
    exact h (.mode (by omega))
  refine ⟨hmode, ?_⟩
  simp only [modeOf_eq_some hmode]
  have probe : l.mode < 2 → ∃ p, probeFields l = some p := by
    intro hlow
    obtain ⟨d, hd⟩ := Option.ne_none_iff_exists'.mp fun e => h (.noData hlow e)
    obtain ⟨n, hn⟩ := Option.ne_none_iff_exists'.mp fun e => h (.noClock hlow e)
    obtain ⟨c, hc⟩ := exists_lineEdgeOf fun f => h (.clock hlow n hn f)
    cases hq : l.qualifier with
    | none => exact ⟨⟨BitVec.ofNat 16 d, c, none⟩, probeFields_eq_some.mpr ⟨⟨d, hd, rfl⟩, ⟨n, hn, hc⟩, .inl ⟨hq, rfl⟩⟩⟩
    | some k =>
      obtain ⟨q, hlevel⟩ := exists_lineLevelOf fun f => h (.qualifier hlow k hq f)
      exact ⟨⟨BitVec.ofNat 16 d, c, some q⟩,
        probeFields_eq_some.mpr ⟨⟨d, hd, rfl⟩, ⟨n, hn, hc⟩, .inr ⟨k, q, hq, rfl, hlevel⟩⟩⟩
  rcases (by omega : l.mode = 0 ∨ l.mode = 1 ∨ l.mode = 2) with h0 | h1 | h2
  · obtain ⟨p, hp⟩ := probe (by omega)
    exact ⟨_, .inl ⟨h0, p, hp, rfl⟩⟩
  · obtain ⟨p, hp⟩ := probe (by omega)
    exact ⟨_, .inr (.inl ⟨h1, p, hp, rfl⟩)⟩
  · have hinput : ¬(l.data ≠ none ∨ l.clock ≠ none ∨ l.qualifier ≠ none) := fun e => h (.hostInput h2 e)
    simp only [not_or, not_not] at hinput
    exact ⟨_, .inr (.inr ⟨h2, rfl, hinput⟩)⟩

/-- A lane is of mode HOST exactly when its code is 2. -/
theorem modeOf_host {l : RawLane} {m : LaneMode} (hmode : l.mode < 3) (hm : modeOf l = some m) :
    m = .host ↔ l.mode = 2 := by
  rcases (modeOf_eq_some hmode).mp hm with ⟨h0, p, -, rfl⟩ | ⟨h1, p, -, rfl⟩ | ⟨h2, rfl, -⟩
  · simp [h0]
  · simp [h1]
  · simp [h2]

/-- Without a fault of its start a lane's start is read. -/
theorem exists_startOf {w : Nat} {l : RawLane} {m : LaneMode} (h : ¬LaneFault w l) (hhost : m = .host ↔ l.mode = 2) :
    ∃ st, startOf m l = some st := by
  have hkind : ¬(2 < l.startKind ∨ (l.startKind = 1 ∧ l.mode = 2)) := fun e => h (.startKind e)
  simp only [startOf_eq_some]
  rcases (by omega : l.startKind = 0 ∨ l.startKind = 1 ∨ l.startKind = 2) with h0 | h1 | h2
  · exact ⟨_, .inl ⟨h0, rfl⟩⟩
  · obtain ⟨n, hn⟩ := Option.ne_none_iff_exists'.mp fun e => h (.startLine h1 (.inl e))
    obtain ⟨e, he⟩ := exists_lineEdgeOf fun f => h (.startLine h1 (.inr ⟨n, hn, f⟩))
    exact ⟨_, .inr (.inl ⟨h1, fun e => hkind (.inr ⟨h1, hhost.mp e⟩), n, e, hn, he, rfl⟩)⟩
  · exact ⟨_, .inr (.inr ⟨h2, rfl⟩)⟩

/-- Without a fault of its stop a lane's stop is read. -/
theorem exists_stopOf {w : Nat} {l : RawLane} {m : LaneMode} (h : ¬LaneFault w l) (hhost : m = .host ↔ l.mode = 2) :
    ∃ sp, stopOf m l = some sp := by
  have hkind : ¬(2 < l.stopKind ∨ (l.stopKind = 0 ∧ l.mode = 2)) := fun e => h (.stopKind e)
  simp only [stopOf_eq_some]
  rcases (by omega : l.stopKind = 0 ∨ l.stopKind = 1 ∨ l.stopKind = 2) with h0 | h1 | h2
  · obtain ⟨n, hn⟩ := Option.ne_none_iff_exists'.mp fun e => h (.stopLine h0 (.inl e))
    obtain ⟨e, he⟩ := exists_lineEdgeOf fun f => h (.stopLine h0 (.inr ⟨n, hn, f⟩))
    exact ⟨_, .inl ⟨h0, fun e => hkind (.inr ⟨h0, hhost.mp e⟩), n, e, hn, he, rfl⟩⟩
  · obtain ⟨n, hn⟩ := Option.ne_none_iff_exists'.mp fun e => h (.stopCount h1 (.inl e))
    exact ⟨_, .inr (.inl ⟨h1, n, hn, fun e => h (.stopCount h1 (.inr (e ▸ hn))), rfl⟩)⟩
  · exact ⟨_, .inr (.inr ⟨h2, rfl⟩)⟩

/-- Without a fault of its data set a lane's data set fits its mode and its profile (R73). -/
theorem dataSetFits_of_no_fault {w : Nat} {l : RawLane} {m : LaneMode} (h : ¬LaneFault w l) (hmode : l.mode < 3)
    (hm : modeOf l = some m) : dataSetFits m w = true := by
  rcases (modeOf_eq_some hmode).mp hm with ⟨h0, p, hp, rfl⟩ | ⟨h1, p, hp, rfl⟩ | ⟨-, rfl, -⟩
  · obtain ⟨⟨d, hd, hdata⟩, -⟩ := probeFields_eq_some.mp hp
    simp only [dataSetFits, hdata, lineCount_ofNat, decide_eq_true_eq]
    by_contra hne
    exact h (.serialData h0 d hd hne)
  · obtain ⟨⟨d, hd, hdata⟩, -⟩ := probeFields_eq_some.mp hp
    simp only [dataSetFits, hdata, lineCount_ofNat, Bool.and_eq_true, decide_eq_true_eq]
    by_contra hne
    exact h (.parallelData h1 d hd (by omega))
  · rfl

/-- A lane without a fault passes the checks. -/
theorem exists_lanePasses {w : Nat} {l : RawLane} (h : ¬LaneFault w l) : ∃ m st sp, LanePasses w l m st sp := by
  obtain ⟨hmode, m, hm⟩ := exists_modeOf h
  have hhost := modeOf_host hmode hm
  obtain ⟨st, hst⟩ := exists_startOf h hhost
  obtain ⟨sp, hsp⟩ := exists_stopOf h hhost
  exact ⟨m, st, sp,
    { modeCode := hmode, mode := hm, start := hst, stop := hsp, limit := fun e => h (.sampleLimit e)
      data := dataSetFits_of_no_fault h hmode hm
      residue := fun x hx => not_le.mp fun f => h (.residue x hx f)
      count := fun lo hi hlo hhi => not_lt.mp fun f => h (.count lo hi hlo hhi f) }⟩

/-- A lane that passes the checks has none of the faults. -/
theorem LanePasses.no_fault {w : Nat} {l : RawLane} {m : LaneMode} {st : StartKind} {sp : StopKind}
    (h : LanePasses w l m st sp) : ¬LaneFault w l := by
  have hhost := modeOf_host h.modeCode h.mode
  have probe : l.mode < 2 → ∃ p, probeFields l = some p ∧ (l.mode = 0 → m = .serial p) ∧ (l.mode = 1 → m = .parallel p) := by
    intro hlow
    rcases (modeOf_eq_some h.modeCode).mp h.mode with ⟨h0, p, hp, rfl⟩ | ⟨h1, p, hp, rfl⟩ | ⟨h2, -⟩
    · exact ⟨p, hp, fun _ => rfl, by omega⟩
    · exact ⟨p, hp, by omega, fun _ => rfl⟩
    · omega
  have start := startOf_eq_some.mp h.start
  have stop := stopOf_eq_some.mp h.stop
  rintro (hm | ⟨hm, e⟩ | ⟨hm, e⟩ | ⟨hm, n, e, f⟩ | ⟨hm, n, e, f⟩ | ⟨hm, e⟩ | hk | ⟨hk, f⟩ | hk | ⟨hk, f⟩ | ⟨hk, f⟩ | hl |
    ⟨hm, d, e, f⟩ | ⟨hm, d, e, f⟩ | ⟨x, e, f⟩ | ⟨lo, hi, e, e', f⟩)
  case mode => exact absurd h.modeCode (by omega)
  case noData =>
    obtain ⟨p, hp, -⟩ := probe hm
    obtain ⟨⟨d, hd, -⟩, -⟩ := probeFields_eq_some.mp hp
    simp [e] at hd
  case noClock =>
    obtain ⟨p, hp, -⟩ := probe hm
    obtain ⟨-, ⟨n, hn, -⟩, -⟩ := probeFields_eq_some.mp hp
    simp [e] at hn
  case clock =>
    obtain ⟨p, hp, -⟩ := probe hm
    obtain ⟨-, ⟨k, hk, hedge⟩, -⟩ := probeFields_eq_some.mp hp
    obtain rfl : n = k := Option.some.inj (e.symm.trans hk)
    exact (lineEdgeOf_eq_some.mp hedge).1 f
  case qualifier =>
    obtain ⟨p, hp, -⟩ := probe hm
    obtain ⟨-, -, ⟨hq, -⟩ | ⟨k, q, hk, -, hlevel⟩⟩ := probeFields_eq_some.mp hp
    · simp [e] at hq
    · obtain rfl : n = k := Option.some.inj (e.symm.trans hk)
      exact (lineLevelOf_eq_some.mp hlevel).1 f
  case hostInput =>
    rcases (modeOf_eq_some h.modeCode).mp h.mode with ⟨h0, -⟩ | ⟨h1, -⟩ | ⟨-, -, hd, hc, hq⟩
    · omega
    · omega
    · simp [hd, hc, hq] at e
  case startKind =>
    rcases start with ⟨h0, -⟩ | ⟨h1, hne, -⟩ | ⟨h2, -⟩
    · omega
    · exact hne (hhost.mpr (by omega))
    · omega
  case startLine =>
    rcases start with ⟨h0, -⟩ | ⟨-, -, n, e, hn, hedge, -⟩ | ⟨h2, -⟩
    · omega
    · rcases f with f | ⟨k, hk, f⟩
      · simp [hn] at f
      · obtain rfl : n = k := Option.some.inj (hn.symm.trans hk)
        exact (lineEdgeOf_eq_some.mp hedge).1 f
    · omega
  case stopKind =>
    rcases stop with ⟨h0, hne, -⟩ | ⟨h1, -⟩ | ⟨h2, -⟩
    · exact hne (hhost.mpr (by omega))
    · omega
    · omega
  case stopLine =>
    rcases stop with ⟨-, -, n, e, hn, hedge, -⟩ | ⟨h1, -⟩ | ⟨h2, -⟩
    · rcases f with f | ⟨k, hk, f⟩
      · simp [hn] at f
      · obtain rfl : n = k := Option.some.inj (hn.symm.trans hk)
        exact (lineEdgeOf_eq_some.mp hedge).1 f
    · omega
    · omega
  case stopCount =>
    rcases stop with ⟨h0, -⟩ | ⟨-, n, hn, hne, -⟩ | ⟨h2, -⟩
    · omega
    · rcases f with f | f
      · simp [hn] at f
      · exact hne (Option.some.inj (hn.symm.trans f))
    · omega
  case sampleLimit => exact h.limit hl
  case serialData =>
    obtain ⟨p, hp, hserial, -⟩ := probe (by omega)
    obtain ⟨⟨k, hk, hdata⟩, -⟩ := probeFields_eq_some.mp hp
    obtain rfl : d = k := Option.some.inj (e.symm.trans hk)
    have := h.data
    simp only [hserial hm, dataSetFits, hdata, lineCount_ofNat, decide_eq_true_eq] at this
    exact f this
  case parallelData =>
    obtain ⟨p, hp, -, hparallel⟩ := probe (by omega)
    obtain ⟨⟨k, hk, hdata⟩, -⟩ := probeFields_eq_some.mp hp
    obtain rfl : d = k := Option.some.inj (e.symm.trans hk)
    have := h.data
    simp only [hparallel hm, dataSetFits, hdata, lineCount_ofNat, Bool.and_eq_true, decide_eq_true_eq] at this
    omega
  case residue => exact absurd (h.residue x e) (by omega)
  case count => exact absurd (h.count lo hi e e') (by omega)

/-- The lane made holds the fields that its bytes give. -/
theorem LanePasses.read {w : Nat} {l : RawLane} {m : LaneMode} {st : StartKind} {sp : StopKind}
    (h : LanePasses w l m st sp) (u : Fin 8) (k : Fin 16) : laneRead l (laneMade u k l m st sp) := by
  have mode := (modeOf_eq_some h.modeCode).mp h.mode
  have start := startOf_eq_some.mp h.start
  have stop := stopOf_eq_some.mp h.stop
  have probe : ∀ {p}, probeFields l = some p → probeRead l p := by
    intro p hp
    obtain ⟨hdata, ⟨n, hn, hedge⟩, hqual⟩ := probeFields_eq_some.mp hp
    refine ⟨hdata, ⟨n, hn, (lineEdgeOf_eq_some.mp hedge).2⟩, fun hq => ?_, fun n hq => ?_⟩
    · rcases hqual with ⟨-, hnone⟩ | ⟨n, q, hn, -⟩
      · exact hnone
      · simp [hq] at hn
    · rcases hqual with ⟨hnone, -⟩ | ⟨k, q, hk, hsome, hlevel⟩
      · simp [hq] at hnone
      · obtain rfl : n = k := Option.some.inj (hq.symm.trans hk)
        exact ⟨q, hsome, (lineLevelOf_eq_some.mp hlevel).2⟩
  refine ⟨fun h0 => ?_, fun h1 => ?_, fun h2 => ?_, fun h0 => ?_, fun h1 => ?_, fun h2 => ?_, fun h0 => ?_, fun h1 => ?_,
    fun h2 => ?_, rfl, rfl, fun hlo hhi => ?_, fun lo hi hlo hhi => ?_⟩
  · rcases mode with ⟨-, p, hp, rfl⟩ | ⟨h, -⟩ | ⟨h, -⟩
    · exact ⟨p, rfl, probe hp⟩
    · omega
    · omega
  · rcases mode with ⟨h, -⟩ | ⟨-, p, hp, rfl⟩ | ⟨h, -⟩
    · omega
    · exact ⟨p, rfl, probe hp⟩
    · omega
  · exact (modeOf_host h.modeCode h.mode).mpr h2
  · rcases start with ⟨-, rfl⟩ | ⟨h, -⟩ | ⟨h, -⟩
    · rfl
    · omega
    · omega
  · rcases start with ⟨h, -⟩ | ⟨-, -, n, e, hn, hedge, rfl⟩ | ⟨h, -⟩
    · omega
    · exact ⟨n, e, hn, rfl, (lineEdgeOf_eq_some.mp hedge).2⟩
    · omega
  · rcases start with ⟨h, -⟩ | ⟨h, -⟩ | ⟨-, rfl⟩
    · omega
    · omega
    · rfl
  · rcases stop with ⟨-, -, n, e, hn, hedge, rfl⟩ | ⟨h, -⟩ | ⟨h, -⟩
    · exact ⟨n, e, hn, rfl, (lineEdgeOf_eq_some.mp hedge).2⟩
    · omega
    · omega
  · rcases stop with ⟨h, -⟩ | ⟨-, n, hn, -, rfl⟩ | ⟨h, -⟩
    · omega
    · exact ⟨n, hn, rfl⟩
    · omega
  · rcases stop with ⟨h, -⟩ | ⟨h, -⟩ | ⟨-, rfl⟩
    · omega
    · omega
    · rfl
  · simp [laneMade, countRangeOf, hlo]
  · simp [laneMade, countRangeOf, hlo, hhi]

/-- A number below 2^w is a word of w bits (spec/01 1.1). -/
theorem Word32.fits_ofNat {w x : Nat} (h : x < 2 ^ w) : Word32.fits w (BitVec.ofNat 32 x) = true :=
  decide_eq_true ((BitVec.toNat_ofNat x 32 ▸ Nat.mod_le _ _ : (BitVec.ofNat 32 x).toNat ≤ x).trans_lt h)

/-- A lane that passes the checks, with numbers that fit their bytes, is well formed (R64 to R67). -/
theorem LanePasses.wellFormed {w : Nat} {l : RawLane} {m : LaneMode} {st : StartKind} {sp : StopKind}
    (h : LanePasses w l m st sp) (hb : l.Bounded) (u : Fin 8) (k : Fin 16) :
    (laneMade u k l m st sp).wellFormed w = true := by
  have hmode : m.wellFormed w = true := by
    have := h.data
    cases m <;> exact this
  have hstart : st.allowed m = true := by
    rcases startOf_eq_some.mp h.start with ⟨-, rfl⟩ | ⟨-, hne, n, e, -, -, rfl⟩ | ⟨-, rfl⟩
    · rfl
    · exact decide_eq_true hne
    · rfl
  have hstop : sp.allowed m = true := by
    rcases stopOf_eq_some.mp h.stop with ⟨-, hne, n, e, -, -, rfl⟩ | ⟨-, n, hn, hne, rfl⟩ | ⟨-, rfl⟩
    · exact decide_eq_true hne
    · have := hb.stopParam n hn
      simp only [StopKind.allowed, Bool.and_eq_true, decide_eq_true_eq]
      omega
    · rfl
  have hlimit : l.sampleLimit.all (fun n => decide (1 ≤ n) && decide (n < 2 ^ 32)) = true := by
    cases hl : l.sampleLimit with
    | none => rfl
    | some n =>
      have := hb.sampleLimit n hl
      have : n ≠ 0 := fun e => h.limit (e ▸ hl)
      simp only [Option.all_some, Bool.and_eq_true, decide_eq_true_eq]
      omega
  have hresidue : (l.expectedResidue.map (BitVec.ofNat 32)).all (Word32.fits w) = true := by
    cases hr : l.expectedResidue with
    | none => rfl
    | some x => exact Word32.fits_ofNat (h.residue x hr)
  have hcount : (countRangeOf l).all CountRange.wellFormed = true := by
    unfold countRangeOf
    split
    · next lo hi hlo hhi =>
      have := hb.countMax hi hhi
      have := h.count lo hi hlo hhi
      simp only [Option.all_some, CountRange.wellFormed, Bool.and_eq_true, decide_eq_true_eq]
      omega
    · rfl
  simp only [Lane.wellFormed, laneMade, hmode, hstart, hstop, hlimit, hresidue, hcount, Bool.and_self]

end Sys2Proof.Machine
end

section
/-! DEFINE STEP (spec/04 R70 to R74): the lanes one by one, the whole record, and what the rule answers. -/

namespace Sys2Proof.Machine

set_option Elab.async false

/-! ### One lane after another (spec/04 R70 step 4, R72) -/

/-- A unit above 7 is out of range. -/
theorem checkLane_of_unit {l : RawLane} (h : 7 < l.unit) (width : Fin 16 → Option Nat) (before : List (Fin 8)) :
    checkLane width before l = .error .range := dif_neg (by omega)

/-- The unit of an earlier lane clashes. -/
theorem checkLane_of_clash {l : RawLane} {u : Fin 8} {before : List (Fin 8)} (hu : u.val = l.unit) (h : u ∈ before)
    (width : Fin 16 → Option Nat) : checkLane width before l = .error .unitClash := by
  obtain ⟨u, hlt⟩ := u
  obtain rfl : u = l.unit := hu
  rw [checkLane, dif_pos hlt, if_pos h]

/-- A slot above 15 is out of range. -/
theorem checkLane_of_slot {l : RawLane} {u : Fin 8} {before : List (Fin 8)} (hu : u.val = l.unit) (hb : u ∉ before)
    (h : 15 < l.slot) (width : Fin 16 → Option Nat) : checkLane width before l = .error .range := by
  obtain ⟨u, hlt⟩ := u
  obtain rfl : u = l.unit := hu
  rw [checkLane, dif_pos hlt, if_neg hb, dif_neg (by omega)]

/-- A lane with a unit of its own and a slot in range is made of checks 4 to 12. -/
theorem checkLane_of_fields {l : RawLane} {u : Fin 8} {k : Fin 16} {before : List (Fin 8)} (hu : u.val = l.unit)
    (hb : u ∉ before) (hk : k.val = l.slot) (width : Fin 16 → Option Nat) :
    checkLane width before l =
      match width k with
      | none => .error .profileEmpty
      | some w =>
        match laneFields u k w l with
        | none => .error .range
        | some x => .ok x := by
  obtain ⟨u, hlt⟩ := u
  obtain ⟨k, hslot⟩ := k
  obtain rfl : u = l.unit := hu
  obtain rfl : k = l.slot := hk
  rw [checkLane, dif_pos hlt, if_neg hb, dif_pos hslot] <;> rfl

/-- An empty slot is refused. -/
theorem checkLane_of_empty {l : RawLane} {u : Fin 8} {k : Fin 16} {before : List (Fin 8)} (hu : u.val = l.unit)
    (hb : u ∉ before) (hk : k.val = l.slot) {width : Fin 16 → Option Nat} (h : width k = none) :
    checkLane width before l = .error .profileEmpty := by
  rw [checkLane_of_fields hu hb hk, h]

/-- A fault among checks 5 to 12 is out of range. -/
theorem checkLane_of_fault {l : RawLane} {u : Fin 8} {k : Fin 16} {before : List (Fin 8)} {w : Nat}
    (hu : u.val = l.unit) (hb : u ∉ before) (hk : k.val = l.slot) {width : Fin 16 → Option Nat} (hw : width k = some w)
    (h : LaneFault w l) : checkLane width before l = .error .range := by
  have hnone : laneFields u k w l = none := by
    cases hx : laneFields u k w l with
    | none => rfl
    | some x =>
      obtain ⟨m, st, sp, passes, -⟩ := laneFields_eq_some.mp hx
      exact absurd h passes.no_fault
  rw [checkLane_of_fields hu hb hk, hw]
  dsimp only
  rw [hnone]

/-- A lane that passes is the one its bytes give. -/
theorem checkLane_of_passes {l : RawLane} {u : Fin 8} {k : Fin 16} {before : List (Fin 8)} {w : Nat} {m : LaneMode}
    {st : StartKind} {sp : StopKind} (hu : u.val = l.unit) (hb : u ∉ before) (hk : k.val = l.slot)
    {width : Fin 16 → Option Nat} (hw : width k = some w) (h : LanePasses w l m st sp) :
    checkLane width before l = .ok (laneMade u k l m st sp) := by
  rw [checkLane_of_fields hu hb hk, hw]
  dsimp only
  rw [laneFields_eq_some.mpr ⟨m, st, sp, h, rfl⟩]

/-- What a lane that is checked to the end has passed. -/
theorem checkLane_ok {width : Fin 16 → Option Nat} {before : List (Fin 8)} {l : RawLane} {x : Lane}
    (h : checkLane width before l = .ok x) :
    x.unit ∉ before ∧ ∃ u k w m st sp, width k = some w ∧ LanePasses w l m st sp ∧ x = laneMade u k l m st sp := by
  unfold checkLane at h
  split at h
  · split at h
    · cases h
    · next hbefore =>
      split at h
      · split at h
        · cases h
        · next w hw =>
          split at h
          · cases h
          · next y hy =>
            cases h
            obtain ⟨m, st, sp, passes, rfl⟩ := laneFields_eq_some.mp hy
            exact ⟨hbefore, _, _, w, m, st, sp, hw, passes, rfl⟩
      · cases h
  · cases h

/-- Lanes that are checked to the end: as many as there were, with units of their own, each well formed over the profile
of its slot. -/
theorem checkLanes_ok {width : Fin 16 → Option Nat} {pos : Nat} {before : List (Fin 8)} {ls : List RawLane}
    {xs : List Lane} (h : checkLanes width pos before ls = .ok xs) (hb : ∀ l ∈ ls, l.Bounded) :
    xs.length = ls.length ∧ (xs.map (·.unit)).Nodup ∧ (∀ x ∈ xs, x.unit ∉ before) ∧
      ∀ x ∈ xs, ∃ w, width x.profile = some w ∧ x.wellFormed w = true := by
  induction ls generalizing pos before xs with
  | nil =>
    cases h
    exact ⟨rfl, List.nodup_nil, by simp, by simp⟩
  | cons l ls ih =>
    rw [checkLanes] at h
    split at h
    · cases h
    · next x hx =>
      split at h
      · cases h
      · next ys hys =>
        cases h
        obtain ⟨hl, hls⟩ := List.forall_mem_cons.mp hb
        obtain ⟨hlen, hnodup, hother, hwf⟩ := ih hys hls
        obtain ⟨hbefore, u, k, w, m, st, sp, hw, passes, rfl⟩ := checkLane_ok hx
        have later : ∀ y ∈ ys, y.unit ∉ before ∧ y.unit ≠ u := fun y hy => by
          simpa [not_or, laneMade] using hother y hy
        refine ⟨by simp [hlen], ?_, List.forall_mem_cons.mpr ⟨hbefore, fun y hy => (later y hy).1⟩,
          List.forall_mem_cons.mpr ⟨⟨w, hw, passes.wellFormed hl u k⟩, hwf⟩⟩
        rw [List.map_cons, List.nodup_cons]
        refine ⟨fun hmem => ?_, hnodup⟩
        obtain ⟨y, hy, hyu⟩ := List.mem_map.mp hmem
        exact (later y hy).2 hyu

/-- The first lane with a fault gives its status and its position. -/
theorem checkLanes_of_fault {width : Fin 16 → Option Nat} {ok more : List RawLane} {l : RawLane} {before : List Lane}
    {st : Status} (pos : Nat) (units : List (Fin 8)) (hok : checkLanes width pos units ok = .ok before)
    (hl : checkLane width (units ++ before.map (·.unit)) l = .error st) :
    checkLanes width pos units (ok ++ l :: more) = .error (st, pos + ok.length) := by
  induction ok generalizing pos units before with
  | nil =>
    cases hok
    rw [List.map_nil, List.append_nil] at hl
    simp only [List.nil_append, checkLanes, hl, List.length_nil, Nat.add_zero]
  | cons x ok ih =>
    rw [checkLanes] at hok
    split at hok
    · cases hok
    · next y hy =>
      split at hok
      · cases hok
      · next ys hys =>
        cases hok
        have := ih (pos + 1) (units ++ [y.unit]) hys (by simpa using hl)
        simp only [List.cons_append, checkLanes, hy, this, List.length_cons]
        congr 2
        omega

/-! ### The header (spec/04 R71) -/

/-- A flag pattern that names no line with code 3 is read (spec/10 10.5). -/
theorem patternVector_eq_none {n : Nat} (h : ∃ k < 4, n / 4 ^ k % 4 = 3) : patternVector n = none := by
  have hcode : ∀ c, c % 4 = 3 → patternOf (c % 4) = none := fun c hc => by rw [hc]; rfl
  obtain ⟨k, hk, hn⟩ := h
  unfold patternVector
  split
  · next a b c d ha hb hc hd =>
    match k, hk with
    | 0, _ => rw [hcode n (by simpa using hn)] at ha; cases ha
    | 1, _ => rw [hcode (n / 4) (by simpa using hn)] at hb; cases hb
    | 2, _ => rw [hcode (n / 16) (by simpa using hn)] at hc; cases hc
    | 3, _ => rw [hcode (n / 64) (by simpa using hn)] at hd; cases hd
  · rfl

/-- What an accepted on-fail field is. -/
theorem onFailOf_eq_some {r : RawStep} {a : OnFail} (h : onFailOf r = some a) :
    (r.onFail = 0 ∧ r.retryLimit = none ∧ r.exhaust = none ∧ a = .cont) ∨
    (r.onFail = 1 ∧ r.retryLimit = none ∧ r.exhaust = none ∧ a = .halt) ∨
    (r.onFail = 2 ∧ ∃ n x, r.retryLimit = some n ∧ 1 ≤ n ∧ n ≤ 7 ∧
      (r.exhaust = some 0 ∧ x = .cont ∨ r.exhaust = some 1 ∧ x = .halt) ∧ a = .retry n x) := by
  unfold onFailOf at h
  split at h
  · next h0 =>
    split at h
    · next hnone =>
      cases h
      simp only [Bool.and_eq_true, Option.isNone_iff_eq_none] at hnone
      exact .inl ⟨h0, hnone.1, hnone.2, rfl⟩
    · cases h
  · next h1 =>
    split at h
    · next hnone =>
      cases h
      simp only [Bool.and_eq_true, Option.isNone_iff_eq_none] at hnone
      exact .inr (.inl ⟨h1, hnone.1, hnone.2, rfl⟩)
    · cases h
  · next h2 =>
    split at h
    · next n hn hx =>
      split at h
      · next hle =>
        cases h
        exact .inr (.inr ⟨h2, n, .cont, hn, hle.1, hle.2, .inl ⟨hx, rfl⟩, rfl⟩)
      · cases h
    · next n hn hx =>
      split at h
      · next hle =>
        cases h
        exact .inr (.inr ⟨h2, n, .halt, hn, hle.1, hle.2, .inr ⟨hx, rfl⟩, rfl⟩)
      · cases h
    · cases h
  · cases h

/-- An accepted on-fail field is well formed (R62). -/
theorem onFailOf_wellFormed {r : RawStep} {a : OnFail} (h : onFailOf r = some a) : a.wellFormed = true := by
  rcases onFailOf_eq_some h with ⟨-, -, -, rfl⟩ | ⟨-, -, -, rfl⟩ | ⟨-, n, x, -, h1, h7, -, rfl⟩
  · rfl
  · rfl
  · simp only [OnFail.wellFormed, Bool.and_eq_true, decide_eq_true_eq]
    exact ⟨h1, h7⟩

/-! ### The whole record (spec/04 R71 to R74) -/

/-- The record that an accepted DEFINE STEP stores. -/
def stepMade (raw : RawStep) (hn : raw.number < 96) (p : Option (Vector PatternValue 4)) (a : OnFail)
    (ls : List Lane) : StepRecord :=
  { number := ⟨raw.number, hn⟩, label := BitVec.ofNat 16 raw.label, timeLimit := raw.timeLimit, settle := raw.settle,
    pattern := p, onFail := a, lanes := ls }

/-- A record whose header passes is what its lanes give. -/
theorem checkStep_of_header {width : Fin 16 → Option Nat} {raw : RawStep} {p : Option (Vector PatternValue 4)}
    {a : OnFail} (hn : raw.number < 96) (h1 : 1 ≤ raw.laneCount) (h8 : raw.laneCount ≤ 8)
    (hp : patternField raw = some p) (ha : onFailOf raw = some a) :
    checkStep width raw =
      match checkLanes width 1 [] raw.lanes with
      | .error e => .error e
      | .ok ls => .ok (stepMade raw hn p a ls) := by
  rw [checkStep, dif_pos hn, if_neg (by omega), hp, ha]
  rfl

/-- What an accepted record has passed. -/
theorem checkStep_ok {width : Fin 16 → Option Nat} {raw : RawStep} {r : StepRecord} (h : checkStep width raw = .ok r) :
    ∃ hn p a ls, 1 ≤ raw.laneCount ∧ raw.laneCount ≤ 8 ∧ patternField raw = some p ∧ onFailOf raw = some a ∧
      checkLanes width 1 [] raw.lanes = .ok ls ∧ r = stepMade raw hn p a ls := by
  unfold checkStep at h
  split at h
  · next hn =>
    split at h
    · cases h
    · next hcount =>
      split at h
      · next p a hp ha =>
        split at h
        · cases h
        · next ls hls =>
          cases h
          exact ⟨hn, p, a, ls, by omega, by omega, hp, ha, hls, rfl⟩
      · cases h
  · cases h

/-- A header fault is out of range, before any lane (R70, R71). -/
theorem checkStep_of_headerFault {width : Fin 16 → Option Nat} {raw : RawStep}
    (h : ¬(raw.number < 96 ∧ 1 ≤ raw.laneCount ∧ raw.laneCount ≤ 8 ∧ patternField raw ≠ none ∧ onFailOf raw ≠ none)) :
    checkStep width raw = .error (.range, 0) := by
  unfold checkStep
  split
  · next hn =>
    split
    · rfl
    · next hcount =>
      split
      · next p a hp ha => exact absurd ⟨hn, by omega, by omega, by simp [hp], by simp [ha]⟩ h
      · rfl
  · rfl

/-- What a well-formed record is (R60 to R62, R74). -/
theorem StepRecord.wellFormed_iff {width : Fin 16 → Option Nat} {r : StepRecord} :
    r.wellFormed width = true ↔
      1 ≤ r.lanes.length ∧ r.lanes.length ≤ 8 ∧ (r.lanes.map (·.unit)).Nodup ∧ r.timeLimit < 2 ^ 16 ∧
        (∀ n, r.settle = some n → n < 2 ^ 16) ∧ r.onFail.wellFormed = true ∧
        ∀ l ∈ r.lanes, ∃ w, width l.profile = some w ∧ l.wellFormed w = true := by
  simp only [StepRecord.wellFormed, Bool.and_eq_true, decide_eq_true_eq, List.all_eq_true, Option.any_eq_true,
    Option.all_eq_true, and_assoc]

/-- A record that passes the checks, read from a payload, is well formed (R60, R74). -/
theorem checkStep_wellFormed {width : Fin 16 → Option Nat} {raw : RawStep} {r : StepRecord} {b : List Byte}
    (hread : readStepPayload b = some raw) (h : checkStep width raw = .ok r) : r.wellFormed width = true := by
  obtain ⟨-, hcount, htime, hsettle, hbound⟩ := readStepPayload_fits hread
  obtain ⟨hn, p, a, ls, h1, h8, -, ha, hls, rfl⟩ := checkStep_ok h
  obtain ⟨hlen, hnodup, -, hwf⟩ := checkLanes_ok hls hbound
  exact StepRecord.wellFormed_iff.mpr
    ⟨hlen.symm ▸ hcount ▸ h1, hlen.symm ▸ hcount ▸ h8, hnodup, htime, hsettle, onFailOf_wellFormed ha, hwf⟩

/-! ### DEFINE STEP -/

/-- A request command whose rule reaches nothing but some blocks, none of them seen by a flag line, and answers with
nothing attached: it is answered, and settings, notices and every other block stand. -/
theorem exec_answered_of_reaches {c : Instr} {s x : State} {f : Frame} {rest : List Frame} {row : Frame → Bool}
    {body : List Byte → State → State × Reply} {t : Nat} {r : Reply} {bs : List Block}
    (hexec : exec c s = .next ((s.advance t).takeRequest row body)) (h : Takes s f rest) (hrow : row f = true)
    (hbody : body f.payload ((s.advance t).popped rest) = (x, r))
    (hx : reaches bs ((s.advance t).popped rest) x)
    (hbs : Block.units ∉ bs ∧ Block.seq ∉ bs ∧ Block.queue ∉ bs ∧ Block.flags ∉ bs ∧ Block.interp ∉ bs ∧ Block.tx ∉ bs) :
    ∃ s', exec c s = .next s' ∧ answeredWith r.attached f rest r.payload s s' ∧ sameSettings s s' ∧ sameNotices s s' ∧
      unchangedBut (bs ++ [.interp, .tx]) s s' ∧ TakingEnds f rest r.payload r.attached s x s' t := by
  obtain ⟨hnow, hblocks, hreset, hpending, hchoices⟩ := hx
  obtain ⟨units, seq, queue, flags, interp, tx⟩ := hbs
  have units := hblocks _ units
  have seq := hblocks _ seq
  have queue := hblocks _ queue
  have flags : x.flags = s.flags := hblocks _ flags
  have interp : x.interp = ((s.advance t).popped rest).interp := hblocks _ interp
  have tx : x.tx = s.tx := hblocks _ tx
  have ends := State.taking_ends h hrow hbody rfl (congrArg Interpreter.requests interp)
    (congrArg Transmitter.queue tx) (congrArg Transmitter.inFlight tx) (congrArg Transmitter.freeAt tx)
  have plan : x.seq.plan = s.seq.plan := congrArg Sequencer.plan seq
  have kept := ends.flagsKept fun n => by
    rw [flags]
    exact State.targetOf_congr hnow.symm plan.symm units.symm queue.symm _
  obtain ⟨start, link, results⟩ := ends.notices
  refine ⟨_, hexec, State.taking_answered h hrow hbody rfl interp tx (writeCache_cacheWritten _ _ _), ?_, ?_, ?_, ends⟩
  · exact ⟨by rw [ends.interp, interp]; rfl, by rw [ends.interp, interp]; rfl⟩
  · exact ⟨start.trans (congrArg _ tx), link.trans (congrArg _ tx),
      (ends.planKept (congrArg _ plan.symm)).trans (congrArg _ tx), results.trans (congrArg _ tx)⟩
  · refine ⟨fun b hb => ?_, ends.nResetLow.trans hreset, ends.pending.trans hpending, ends.choices.trans hchoices⟩
    simp only [List.mem_append, List.mem_cons, List.not_mem_nil, or_false, not_or] at hb
    have same := hblocks b hb.1
    cases b
    case probes => exact ends.probes.trans same
    case profiles => exact ends.profiles.trans same
    case steps => exact ends.steps.trans same
    case units => exact ends.units.trans same
    case seq => exact ends.seq.trans same
    case queue => exact ends.queue.trans same
    case flags => exact kept.trans flags
    case rx => exact ends.rx.trans same
    case interp => exact absurd rfl hb.2.1
    case tx => exact absurd rfl hb.2.2

/-- A payload of another length than the one it declares is MALFORMED (R70, R178). -/
theorem defineStep_of_not_fits {payload : List Byte} (h : ¬stepFits payload) (s : State) :
    defineStep payload s = (s, .refuse .malformed) := by
  rw [defineStep, readStepPayload_of_not_fits h]

/-- A DEFINE STEP is refused while the plan is not IDLE (R70). -/
theorem defineStep_of_active {payload : List Byte} {raw : RawStep} (hread : readStepPayload payload = some raw)
    {s : State} (h : s.seq.plan ≠ .idle) : defineStep payload s = (s, .refuse .planActive) := by
  rw [defineStep, hread]
  exact if_pos h

/-- The first fault of a record is its answer (R70). -/
theorem defineStep_of_fault {payload : List Byte} {raw : RawStep} (hread : readStepPayload payload = some raw)
    {s : State} (h : s.seq.plan = .idle) {e : Status × Nat} (he : checkStep s.widthAt raw = .error e) :
    defineStep payload s = (s, { Reply.refuse e.1 with detail := e.2 }) := by
  simp only [defineStep, hread, h, he, ne_eq, not_true, if_false]

/-- A record without a fault takes its slot whole (R74). -/
theorem defineStep_of_ok {payload : List Byte} {raw : RawStep} (hread : readStepPayload payload = some raw)
    {s : State} (h : s.seq.plan = .idle) {r : StepRecord} (hr : checkStep s.widthAt raw = .ok r) :
    defineStep payload s = ({ s with steps := s.steps.set r.number (some r) }, .okWith []) := by
  simp only [defineStep, hread, h, hr, ne_eq, not_true, if_false]

/-- The widths of the profiles held depend on the Profile Table alone. -/
theorem State.widthAt_congr {a b : State} (h : a.profiles = b.profiles) : a.widthAt = b.widthAt :=
  funext fun k => congrArg (Option.map _) (State.profileAt_congr h k)

/-- Settles O58: the layout by the places of the optional fields, the record by its header and its lanes in turn, each
lane by its faults. -/
theorem defineStepStoresWholeRecord : Obligations.DefineStepStoresWholeRecord := by
  refine ⟨fun t s f rest h hkind => ?request, fun width raw => ?record, fun width before l => ?lane⟩
  case request =>
    have hrow : Frame.isKind .defineStep f = true := by simp [Frame.isKind, hkind, ReqKind.ofCode]
    have only : ∀ {r : Reply}, defineStep f.payload ((s.advance t).popped rest) = ((s.advance t).popped rest, r) →
        r.attached = .nothing → ∃ s', exec (.defineStep t) s = .next s' ∧ answeredOnly f rest r.payload s s' :=
      exec_answeredOnly rfl h hrow
    refine ⟨fun hfits => only (r := .refuse .malformed) (defineStep_of_not_fits hfits _) rfl, readStepPayload_of_fits,
      fun raw hread => ⟨fun hactive => ?_, fun hidle st d he => ?_, fun hidle r hr => ?_⟩⟩
    · exact only (r := .refuse .planActive) (defineStep_of_active hread hactive) rfl
    · exact only (r := { Reply.refuse st with detail := d }) (defineStep_of_fault (s := (s.advance t).popped rest) hread hidle he) rfl
    · obtain ⟨s', hs', answer, settings, notices, unchanged, ends⟩ := exec_answered_of_reaches (c := .defineStep t)
        (bs := [.steps]) rfl h hrow (defineStep_of_ok (s := (s.advance t).popped rest) hread hidle hr)
        ⟨rfl, fun b hb => by cases b <;> simp [sameBlock] at hb ⊢, rfl, rfl, rfl⟩ (by simp)
      exact ⟨s', hs', answer, settings, notices, unchanged, fun m => by rw [ends.steps, getElem_set_fin]; rfl⟩
  case record =>
    refine ⟨fun hfault => checkStep_of_headerFault ?_, ?_, ?_⟩
    · rintro ⟨hn, h1, h8, hp, ha⟩
      obtain ⟨a, ha⟩ := Option.ne_none_iff_exists'.mp ha
      have act := onFailOf_eq_some ha
      rcases hfault with h | h | h | h | ⟨h, e⟩ | ⟨h, e⟩ | ⟨n, hn', h⟩ | ⟨n, hn', h⟩ | ⟨n, hn', h⟩
      · omega
      · omega
      · omega
      · rcases act with ⟨h0, -⟩ | ⟨h1, -⟩ | ⟨h2, -⟩ <;> omega
      · rcases act with ⟨-, hr, hx, -⟩ | ⟨-, hr, hx, -⟩ | ⟨h2, -⟩
        · simp [hr, hx] at e
        · simp [hr, hx] at e
        · omega
      · rcases act with ⟨h0, -⟩ | ⟨h1, -⟩ | ⟨-, n, x, hr, -, -, hx, -⟩
        · omega
        · omega
        · rcases hx with ⟨hx, -⟩ | ⟨hx, -⟩ <;> simp [hr, hx] at e
      · rcases act with ⟨-, hr, -⟩ | ⟨-, hr, -⟩ | ⟨-, k, x, hr, h1, h7, -⟩
        · simp [hr] at hn'
        · simp [hr] at hn'
        · obtain rfl : n = k := Option.some.inj (hn'.symm.trans hr)
          omega
      · rcases act with ⟨-, -, hx, -⟩ | ⟨-, -, hx, -⟩ | ⟨-, k, x, -, -, -, ⟨hx, -⟩ | ⟨hx, -⟩, -⟩
        · simp [hx] at hn'
        · simp [hx] at hn'
        · obtain rfl : n = 0 := Option.some.inj (hn'.symm.trans hx)
          omega
        · obtain rfl : n = 1 := Option.some.inj (hn'.symm.trans hx)
          omega
      · simp [patternField, hn', patternVector_eq_none h] at hp
    · intro ok l more before st hlanes hok hl hn h1 h8 hp ha
      obtain ⟨p, hp⟩ := Option.ne_none_iff_exists'.mp hp
      obtain ⟨a, ha⟩ := Option.ne_none_iff_exists'.mp ha
      rw [checkStep_of_header hn h1 h8 hp ha, hlanes, checkLanes_of_fault 1 [] hok hl, Nat.add_comm]
    · intro ls p a hls hn h1 h8 hp ha
      exact ⟨stepMade raw hn p a ls, by rw [checkStep_of_header hn h1 h8 hp ha, hls], rfl, rfl, rfl, rfl, rfl, rfl, rfl⟩
  case lane =>
    refine ⟨fun hu => checkLane_of_unit hu width before, fun u hu => ⟨fun hb => checkLane_of_clash hu hb width,
      fun hb hslot => checkLane_of_slot hu hb hslot width, fun k hb hk => ⟨checkLane_of_empty hu hb hk, fun w hw =>
        ⟨checkLane_of_fault hu hb hk hw, fun hfault => ?_⟩⟩⟩⟩
    obtain ⟨m, st, sp, passes⟩ := exists_lanePasses hfault
    exact ⟨_, checkLane_of_passes hu hb hk hw passes, rfl, rfl, passes.read u k⟩

end Sys2Proof.Machine
end

section
/-! Every step keeps every profile and every step record well formed (spec/01 R2, R13; spec/04 R60, R74). -/

namespace Sys2Proof.Machine

set_option Elab.async false

/-! ### The Profile Table -/

/-- The profile that a DEFINE PROFILE accepts is well formed (spec/01 R2, R14). -/
theorem checkProfile_wellFormed {w poly seed mask dir order : Nat} {p : Profile}
    (h : checkProfile w poly seed mask dir order = .ok p) : p.wellFormed = true := by
  unfold checkProfile at h
  split at h
  · cases h
  · next hw =>
    split at h
    · cases h
    · next hpoly =>
      split at h
      · cases h
      · next hseed =>
        split at h
        · cases h
        · next hmask =>
          split at h
          · cases h
          · split at h
            · cases h
            · cases h
              have odd : (BitVec.ofNat 32 poly).getLsbD 0 = true := by
                simp only [BitVec.getLsbD_ofNat, Nat.testBit_zero, decide_eq_true_eq, Bool.and_eq_true]
                omega
              simp only [Profile.wellFormed, Bool.and_eq_true, decide_eq_true_eq]
              exact ⟨⟨⟨⟨⟨by omega, by omega⟩, Word32.fits_ofNat (by omega)⟩, odd⟩, Word32.fits_ofNat (by omega)⟩,
                Word32.fits_ofNat (by omega)⟩

/-- A slot is in use exactly when a lane of a step record names it (spec/01 R13). -/
theorem State.inUse_iff {s : State} {slot : Fin 16} :
    s.inUse slot = true ↔ ∃ (n : Fin 96) (r : StepRecord) (l : Lane), s.steps[n] = some r ∧ l ∈ r.lanes ∧ l.profile = slot := by
  simp only [State.inUse, List.any_eq_true, List.mem_finRange, true_and, Option.any_eq_true, decide_eq_true_eq]
  exact ⟨fun ⟨n, r, hr, l, hl, h⟩ => ⟨n, r, l, hr, hl, h⟩, fun ⟨n, r, l, hr, hl, h⟩ => ⟨n, r, hr, l, hl, h⟩⟩

/-- A host slot takes contents, and no other is reached. -/
theorem State.setProfile_profiles {n : Fin 16} {k : Fin 14} (h : n.val = k.val) (p : Option Profile) (s : State) :
    s.setProfile n p = { s with profiles := s.profiles.set k p } := by
  obtain ⟨n, hn⟩ := n
  obtain rfl : n = k.val := h
  exact dif_pos k.isLt

/-- The other slots hold what they held. -/
theorem State.setProfile_profileAt {n m : Fin 16} (hm : m ≠ n) (p : Option Profile) (s : State) :
    (s.setProfile n p).profileAt m = s.profileAt m := by
  unfold State.setProfile
  split
  · simp only [State.profileAt]
    split
    · exact Vector.getElem_set_ne _ _ fun e => hm (Fin.ext e.symm)
    · rfl
  · rfl

/-! ### Step records over the profiles held -/

/-- A step record is well formed over widths that agree on the slots it names. -/
theorem StepRecord.wellFormed_congr {a b : Fin 16 → Option Nat} {r : StepRecord}
    (h : ∀ l ∈ r.lanes, a l.profile = b l.profile) (hr : r.wellFormed a = true) : r.wellFormed b = true := by
  rw [StepRecord.wellFormed_iff] at hr ⊢
  obtain ⟨h1, h8, hnodup, htime, hsettle, hfail, hlanes⟩ := hr
  refine ⟨h1, h8, hnodup, htime, hsettle, hfail, fun l hl => ?_⟩
  rw [← h l hl]
  exact hlanes l hl

/-- The tables stand sound where the profiles and the step records stand. -/
theorem State.tablesSound_congr {a b : State} (hp : b.profiles = a.profiles) (hs : b.steps = a.steps)
    (h : a.tablesSound) : b.tablesSound := by
  obtain ⟨profiles, steps⟩ := h
  refine ⟨fun n p hn => profiles n p (by rw [← hp]; exact hn), fun n r hn => ?_⟩
  rw [State.widthAt_congr hp]
  exact steps n r (by rw [← hs]; exact hn)

/-- A slot that no lane names may take a well-formed profile, or none (spec/01 R13, R14, R16). -/
theorem State.setProfile_tablesSound {s : State} {n : Fin 16} {p : Option Profile} (hs : s.tablesSound)
    (huse : s.inUse n = false) (hp : ∀ x, p = some x → x.wellFormed = true) : (s.setProfile n p).tablesSound := by
  obtain ⟨profiles, steps⟩ := hs
  refine ⟨fun m x hm => ?_, fun m r hm => ?_⟩
  · by_cases hn : n.val < 14
    · rw [State.setProfile_profiles (k := ⟨n.val, hn⟩) rfl, getElem_set_fin] at hm
      split at hm
      · exact hp x hm
      · exact profiles m x hm
    · rw [State.setProfile, dif_neg hn] at hm
      exact profiles m x hm
  · simp only [State.setProfile_frame] at hm
    obtain ⟨hnumber, hwf⟩ := steps m r hm
    refine ⟨hnumber, StepRecord.wellFormed_congr (fun l hl => ?_) hwf⟩
    have other : l.profile ≠ n := fun e =>
      absurd (State.inUse_iff.mpr ⟨m, r, l, hm, hl, e⟩) (by simp [huse])
    exact congrArg (Option.map _) (State.setProfile_profileAt other p s).symm

/-- A well-formed step record may take the slot of its number, and any slot may be emptied (spec/04 R74, R76). -/
theorem State.tablesSound_of_steps {s : State} {steps : Vector (Option StepRecord) 96} (hs : s.tablesSound)
    (h : ∀ (n : Fin 96) (r : StepRecord), steps[n] = some r →
      s.steps[n] = some r ∨ (r.number = n ∧ r.wellFormed s.widthAt = true)) :
    ({ s with steps := steps } : State).tablesSound :=
  ⟨hs.1, fun n r hn => (h n r hn).elim (hs.2 n r) id⟩

/-! ### The rules that reach the tables -/

/-- DEFINE PROFILE keeps the tables sound. -/
theorem defineProfile_tablesSound (payload : List Byte) {s : State} (hs : s.tablesSound) :
    (defineProfile payload s).1.tablesSound := by
  unfold defineProfile withSlot
  split
  · split
    · dsimp only
      split
      · exact hs
      · split
        · exact hs
        · next p hp =>
          split
          · exact hs
          · next huse =>
            refine State.setProfile_tablesSound hs (by simpa using huse) ?_
            rintro x ⟨⟩
            exact checkProfile_wellFormed hp
    · exact hs
  · exact hs

/-- ERASE PROFILE keeps the tables sound. -/
theorem eraseProfile_tablesSound (payload : List Byte) {s : State} (hs : s.tablesSound) :
    (eraseProfile payload s).1.tablesSound := by
  unfold eraseProfile withSlot
  split
  · split
    · dsimp only
      split
      · exact hs
      · split
        · exact hs
        · next huse => exact State.setProfile_tablesSound hs (by simpa using huse) nofun
    · exact hs
  · exact hs

/-- DEFINE STEP keeps the tables sound. -/
theorem defineStep_tablesSound (payload : List Byte) {s : State} (hs : s.tablesSound) :
    (defineStep payload s).1.tablesSound := by
  unfold defineStep
  split
  · exact hs
  · next raw hread =>
    split
    · exact hs
    · split
      · exact hs
      · next r hr =>
        refine State.tablesSound_of_steps hs fun n x hn => ?_
        rw [getElem_set_fin] at hn
        split at hn
        · next heq =>
          obtain rfl := Option.some.inj hn
          exact .inr ⟨heq.symm, checkStep_wellFormed hread hr⟩
        · exact .inl hn

/-- ERASE STEPS keeps the tables sound. -/
theorem eraseSteps_tablesSound (payload : List Byte) {s : State} (hs : s.tablesSound) :
    (eraseSteps payload s).1.tablesSound := by
  unfold eraseSteps
  split
  · split
    · exact hs
    · split
      · exact hs
      · refine State.tablesSound_of_steps hs fun n x hn => ?_
        rw [getElem_ofFn_fin] at hn
        split at hn
        · cases hn
        · exact .inl hn
  · exact hs

/-- Every command keeps the tables sound. -/
theorem exec_tablesSound (c : Instr) (s s' : State) (hs : s.tablesSound) (h : exec c s = .next s') : s'.tablesSound := by
  refine exec_keeps (P := State.tablesSound) (bs := [.profiles, .steps]) (by simp) ?same ?fresh ?command c s s' hs h
  case same => exact fun s s' same => State.tablesSound_congr (same .profiles (by simp)) (same .steps (by simp))
  case fresh =>
    rintro pins s ⟨-, profiles, steps, -⟩
    exact ⟨fun n p hn => by simp [profiles n] at hn, fun n r hn => by simp [steps n] at hn⟩
  case command =>
    intro c s s' htouched hreset hs h
    have taking : ∀ {row body t}, (∀ p x, x.tablesSound → (body p x).1.tablesSound) →
        ((s.advance t).takeRequest row body).tablesSound := fun {row body t} hbody =>
      State.takeRequest_keeps (State.tablesSound_congr rfl rfl hs) (fun _ => State.tablesSound_congr rfl rfl hs) hbody
        (fun _ _ _ _ => State.tablesSound_congr rfl rfl) fun x => State.tablesSound_congr (by simp) (by simp)
    cases c <;> simp [touched, ownBlocks, takingOf] at htouched hreset <;> cases h
    case defineStep => exact taking fun p x hx => defineStep_tablesSound p hx
    case eraseSteps => exact taking fun p x hx => eraseSteps_tablesSound p hx
    case defineProfile => exact taking fun p x hx => defineProfile_tablesSound p hx
    case eraseProfile => exact taking fun p x hx => eraseProfile_tablesSound p hx

/-- Settles O8: only a slot that no lane names takes another profile, and only a record that passed the checks is stored. -/
theorem stepKeepsTablesSound : Obligations.StepKeepsTablesSound := fun _ _ =>
  step_keeps exec_tablesSound (fun _ _ => State.tablesSound_congr rfl rfl) fun _ _ => State.tablesSound_congr rfl rfl

end Sys2Proof.Machine
end

section
/-! What the happenings at units do to the state, said once: a unit moves on or closes, and a close keeps its report, with
which the step may end (spec/03 R38 to R49, R54, R56; spec/05 R87). What both keep, every such happening keeps. -/

namespace Sys2Proof.Machine

set_option Elab.async false

/-- The state with unit `u` at `c`. -/
def State.setUnit (u : Fin 8) (c : Bound) (s : State) : State := { s with units := s.units.set u (some c) }

/-- The state with unit `u` closed from `b` and its report kept at position `i`. -/
def State.withReport (reason : CloseReason) (u : Fin 8) (b : Bound) (i : Fin 8) (s : State) : State :=
  { s with
    units := s.units.set u (some (b.close s.now reason))
    seq := { s.seq with reports := s.seq.reports.set i (some (b.report u s.now reason)) } }

/-- A close does nothing at an IDLE unit; a unit that no lane names closes and no more; else its report is kept, and with
the last one the step ends (spec/03 R47, spec/05 R87). -/
theorem State.closeUnit_cases (reason : CloseReason) (u : Fin 8) (s : State) :
    (s.units[u] = none ∧ s.closeUnit reason u = s) ∨
    ∃ b, s.units[u] = some b ∧
      ((s.closeUnit reason u = s.setUnit u (b.close s.now reason) ∧ ∀ i : Fin 8, s.seq.laneOf u ≠ some i.val) ∨
        ∃ i : Fin 8, s.seq.laneOf u = some i.val ∧
          ((s.withReport reason u b i).seq.allReported = false ∧
              s.closeUnit reason u = s.withReport reason u b i ∨
            (s.withReport reason u b i).seq.allReported = true ∧
              s.closeUnit reason u = (s.withReport reason u b i).endStep)) := by
  unfold State.closeUnit
  split
  · next hu => exact .inl ⟨hu, rfl⟩
  · next b hu =>
    refine .inr ⟨b, hu, ?_⟩
    unfold State.takeReport
    split
    · next hlane =>
      exact .inl ⟨rfl, fun i hi => by
        rw [show s.seq.laneOf u = none from hlane] at hi
        cases hi⟩
    · next i hlane =>
      split
      · next hi =>
        refine .inr ⟨⟨i, hi⟩, hlane, ?_⟩
        dsimp only
        split
        · next hall => exact .inr ⟨hall, rfl⟩
        · next hall => exact .inl ⟨eq_false_of_ne_true hall, rfl⟩
      · next hi =>
        exact .inl ⟨rfl, fun j hj => hi (by
          have : some i = some j.val := hlane.symm.trans hj
          have := Option.some.inj this
          omega)⟩

/-- A unit moves on from `b` to `c` without a close: an edge leaves its inbox, its window opens, or a sample is taken. -/
inductive Bound.Moves (now : Nat) : Bound → Bound → Prop
  | received {b : Bound} {inbox : List ProbeEdge} : Moves now b { b with inbox := inbox }
  | opened {b : Bound} (h : b.phase = .armed) : Moves now b (b.openWindow now)
  | sampled {b : Bound} {sample : List Bool} (h : b.phase = .opened) : Moves now b (b.takeSample sample)
  | trans {a b c : Bound} (h1 : Moves now a b) (h2 : Moves now b c) : Moves now a c

/-- A window neither closes nor leaves CLOSED by a move. -/
theorem Bound.Moves.closed_iff {now : Nat} {b c : Bound} (h : b.Moves now c) : c.phase = .closed ↔ b.phase = .closed := by
  induction h with
  | received => exact Iff.rfl
  | opened h => simp [Bound.openWindow, h]
  | sampled h => exact Iff.rfl
  | trans _ _ h1 h2 => exact h2.trans h1

/-- An edge taken from the inbox is a move. -/
theorem Bound.takeEdge_moves {n : Fin 16} {b left : Bound} {e : ProbeEdge} (now : Nat) (h : b.takeEdge n = some (e, left)) :
    b.Moves now left := by
  obtain ⟨x, -, heq⟩ := Option.map_eq_some_iff.mp h
  obtain ⟨-, rfl⟩ := Prod.mk.inj heq
  exact .received

/-- The effect of an edge at a unit by its phase; an OPEN unit of mode FED and a CLOSED one feel none. -/
theorem Bound.edgeEffect_cases (level : Fin 16 → Bool) (e : ProbeEdge) (b : Bound) :
    (b.phase = .armed ∧ (b.edgeEffect level e = .opens ∨ b.edgeEffect level e = .nothing)) ∨
    (b.phase = .opened ∧ b.edgeEffect level e ≠ .opens) ∨
    (b.phase = .closed ∧ b.edgeEffect level e = .nothing) := by
  cases hphase : b.phase with
  | armed =>
    rw [Bound.edgeEffect_of_armed level e b hphase]
    exact .inl ⟨rfl, by split <;> simp⟩
  | closed => exact .inr (.inr ⟨rfl, by simp only [Bound.edgeEffect, hphase]⟩)
  | opened =>
    refine .inr (.inl ⟨rfl, ?_⟩)
    cases hinput : probeInput b.lane with
    | none => simp [Bound.edgeEffect, hphase, hinput]
    | some p =>
      rw [Bound.edgeEffect_of_open level e b p hphase hinput]
      split
      · simp
      · split <;> simp

/-- Only an ARMED window opens. -/
theorem Bound.armed_of_opens {level : Fin 16 → Bool} {e : ProbeEdge} (b : Bound) (h : b.edgeEffect level e = .opens) :
    b.phase = .armed := by
  rcases b.edgeEffect_cases level e with ⟨hp, -⟩ | ⟨-, hno⟩ | ⟨-, hno⟩
  · exact hp
  · exact absurd h hno
  · rw [hno] at h
    cases h

/-- Only an OPEN window takes a sample. -/
theorem Bound.opened_of_samples {level : Fin 16 → Bool} {e : ProbeEdge} (b : Bound)
    (h : b.edgeEffect level e = .samples) : b.phase = .opened := by
  rcases b.edgeEffect_cases level e with ⟨-, ho | ho⟩ | ⟨hp, -⟩ | ⟨-, ho⟩
  · rw [ho] at h
    cases h
  · rw [ho] at h
    cases h
  · exact hp
  · rw [ho] at h
    cases h

/-- The bits of a FEED move an OPEN unit on, and leave it OPEN. -/
theorem Bound.feedBits_moves (now : Nat) (bits : List Bool) {b : Bound} (h : b.phase = .opened) :
    b.Moves now (Bound.feedBits bits b).1 ∧ (Bound.feedBits bits b).1.phase = .opened := by
  induction bits generalizing b with
  | nil => exact ⟨.received (inbox := b.inbox), h⟩
  | cons d ds ih =>
    have one : b.Moves now (b.takeSample [d]) := .sampled h
    rw [Bound.feedBits]
    dsimp only
    split
    · exact ⟨one, h⟩
    · obtain ⟨more, hopen⟩ := ih (b := b.takeSample [d]) h
      exact ⟨one.trans more, hopen⟩

section Keeps
variable {P : State → Prop}

/-- What a close at its unit, the keeping of its report and the end of the step keep, a close keeps (spec/03 R47,
spec/05 R87). -/
theorem State.closeUnit_keeps
    (hunit : ∀ s u b r, P s → s.units[u] = some b → (∀ i : Fin 8, s.seq.laneOf u ≠ some i.val) →
      P (s.setUnit u (b.close s.now r)))
    (hreport : ∀ s u b r (i : Fin 8), P s → s.units[u] = some b → s.seq.laneOf u = some i.val →
      P (s.withReport r u b i))
    (hend : ∀ (s : State) (u : Fin 8), P s → s.units[u] ≠ none → s.seq.allReported = true → P s.endStep) (s : State) (r : CloseReason)
    (u : Fin 8) (hs : P s) : P (s.closeUnit r u) := by
  rcases s.closeUnit_cases r u with ⟨-, h⟩ | ⟨b, hu, ⟨h, hlane⟩ | ⟨i, hlane, ⟨-, h⟩ | ⟨hall, h⟩⟩⟩ <;> rw [h]
  · exact hs
  · exact hunit s u b r hs hu hlane
  · exact hreport s u b r i hs hu hlane
  · exact hend _ u (hreport s u b r i hs hu hlane) (by simp [State.withReport]) hall

/-- What moves and closes keep, the receipt of an edge keeps (spec/03 R38 to R45). -/
theorem State.receive_keeps (hset : ∀ s u b c, P s → s.units[u] = some b → b.Moves s.now c → P (s.setUnit u c))
    (hclose : ∀ s r u, P s → P (s.closeUnit r u)) {s : State} {u : Fin 8} {n : Fin 16} {b left : Bound} {e : ProbeEdge}
    (hs : P s) (hu : s.units[u] = some b) (he : b.takeEdge n = some (e, left)) : P (s.receive u e left) := by
  have hleft := Bound.takeEdge_moves s.now he
  unfold State.receive
  split
  · exact hset s u b _ hs hu hleft
  · next heffect =>
    exact hset s u b _ hs hu (hleft.trans (.opened (left.armed_of_opens heffect)))
  · exact hclose _ _ _ (hset s u b _ hs hu hleft)
  · next heffect =>
    have hopen := left.opened_of_samples heffect
    have sampled := hset s u b _ hs hu (hleft.trans (.sampled (sample := left.sampleOf s.levelOf) hopen))
    dsimp only
    split
    · exact sampled
    · exact hclose _ _ _ sampled

/-- What closes keep, the closes of several units keep (spec/03 R54). -/
theorem State.closeAll_keeps (hclose : ∀ s r u, P s → P (s.closeUnit r u)) (r : CloseReason) (us : List (Fin 8))
    {s : State} (hs : P s) : P (us.foldl (fun x u => x.closeUnit r u) s) := by
  induction us generalizing s with
  | nil => exact hs
  | cons u us ih => exact ih (hclose s r u hs)

/-- What closes keep, MARK STOP keeps (spec/03 R54). -/
theorem markStop_keeps (hclose : ∀ s r u, P s → P (s.closeUnit r u)) (payload : List Byte) {s : State} (hs : P s) :
    P (markStop payload s).1 := by
  unfold markStop
  split
  · split
    · exact hs
    · exact State.closeAll_keeps hclose _ _ hs
  · exact hs

/-- What moves and closes keep, FEED keeps (spec/03 R55 to R57). -/
theorem feed_keeps (hset : ∀ s u b c, P s → s.units[u] = some b → b.Moves s.now c → P (s.setUnit u c))
    (hclose : ∀ s r u, P s → P (s.closeUnit r u)) (payload : List Byte) {s : State} (hs : P s) :
    P (feed payload s).1 := by
  unfold feed
  split
  · split
    · exact hs
    · split
      · dsimp only
        split
        · exact hs
        · split
          · exact hs
          · next b hu =>
            split
            · next htakes =>
              have hopen : b.phase = .opened := (by simpa [Bound.takesBytes] using htakes : _ ∧ _).1
              have moved := fun bits => hset s _ b _ hs hu (Bound.feedBits_moves s.now bits hopen).1
              unfold feedUnit
              dsimp only
              split
              · exact moved _
              · exact hclose _ _ _ (moved _)
            · exact hs
      · exact hs
  · exact hs

/-- What closes and the end of a happening keep, the closes of a step timer expiry keep (spec/03 R49). -/
theorem State.expireAll_keeps (hclose : ∀ s r u, P s → P (s.closeUnit r u)) (hfinish : ∀ x b, P b → P x → P (x.finish b))
    (us : List (Fin 8)) {s : State} (hs : P s) : P (us.foldl (fun x u => x.expiryAt u) s) := by
  induction us generalizing s with
  | nil => exact hs
  | cons u us ih =>
    refine ih (hfinish _ _ hs ?_)
    unfold State.expireUnit
    split
    · exact hs
    · split
      · exact hclose _ _ _ hs
      · exact hclose _ _ _ hs
      · exact hs

/-- What its receipt keeps, an EDGE_RECEIPT keeps. -/
theorem execEdgeReceipt_keeps {t : Nat} {u : Fin 8} {n : Fin 16} {kind : EdgeKind} {s s' : State}
    (hadvance : P (s.advance t))
    (hreceive : ∀ b left e, s.units[u] = some b → b.takeEdge n = some (e, left) →
      P (((s.advance t).receive u e left).finish (s.advance t)))
    (h : execEdgeReceipt t u n kind s = .next s') : P s' := by
  simp only [execEdgeReceipt] at h
  split at h
  · cases h
    exact hadvance
  · next e left he =>
    obtain ⟨b, hu, he⟩ := Option.bind_eq_some_iff.mp he
    split at h <;> cases h
    · exact hreceive b left e hu he
    · exact hadvance

/-- What the closes of an expiry keep, a STEP_TIMER_EXPIRY keeps. -/
theorem execStepTimerExpiry_keeps {t : Nat} {s s' : State} (hadvance : P (s.advance t))
    (hexpire : ∀ us : List (Fin 8), P (us.foldl (fun x u => x.expiryAt u)
      { s.advance t with seq := { s.seq with stepTimerAt := none } }))
    (h : execStepTimerExpiry t s = .next s') : P s' := by
  simp only [execStepTimerExpiry] at h
  split at h <;> cases h
  · exact hexpire _
  · exact hadvance

/-- What the end of the settle time keeps, a SETTLE_END keeps. -/
theorem execSettleEnd_keeps {t : Nat} {s s' : State} (hadvance : P (s.advance t))
    (hcapture : s.seq.plan = .settling → P ((s.advance t).capture.finish (s.advance t)))
    (h : execSettleEnd t s = .next s') : P s' := by
  simp only [execSettleEnd] at h
  split at h <;> cases h
  · next hc => exact hcapture hc.1
  · exact hadvance

/-- What its own rule keeps, a request without parameters keeps. -/
theorem noParameters_keeps {own : State → State × Reply} {x : State} (payload : List Byte) (hx : P x)
    (h : P (own x).1) : P (noParameters own payload x).1 := by
  unfold noParameters
  split
  · exact h
  · exact hx

/-- What the start of a run from IDLE keeps, RUN keeps (spec/05 R82). -/
theorem runPlan_keeps {x : State} (payload : List Byte) (hx : P x)
    (hrun : ∀ (f l : Fin 96) (k : Nat) (n : Fin 96), x.seq.plan = .idle → x.firstDefined f.val l.val = some n →
      P (x.startRun f l k n)) : P (runPlan payload x).1 := by
  unfold runPlan
  split
  · split
    · exact hx
    · next hidle =>
      split
      · next hrange =>
        split
        · exact hx
        · next n hn => exact hrun ⟨_, Nat.lt_of_le_of_lt hrange.1 hrange.2⟩ ⟨_, hrange.2⟩ _ n (not_not.mp hidle) hn
      · exact hx
  · exact hx

/-- What the setting of pause-pending keeps, PAUSE keeps (spec/05 R98). -/
theorem pausePlan_keeps {x : State} (hx : P x) (hpending : P { x with seq := { x.seq with pausePending := true } }) :
    P (pausePlan x).1 := by
  unfold pausePlan
  split
  · exact hx
  · split
    · exact hx
    · exact hpending

/-- What the start of a step from PAUSED and the clearing of pause-pending keep, RESUME keeps (spec/05 R99). -/
theorem resumePlan_keeps {x : State} (hx : P x) (hstart : x.seq.plan = .paused → P x.startStep)
    (hpending : P { x with seq := { x.seq with pausePending := false } }) : P (resumePlan x).1 := by
  unfold resumePlan
  split
  · exact hstart ‹_›
  · split
    · exact hpending
    · exact hx

/-- What the end of a run in progress keeps, ABORT keeps (spec/05 R100). -/
theorem abortPlan_keeps {x : State} (hx : P x) (hstop : x.seq.plan ≠ .idle → P (x.stopRun.setOutcome .aborted)) :
    P (abortPlan x).1 := by
  unfold abortPlan
  split
  · exact hx
  · exact hstop ‹_›

/-- What a PLAN reset keeps, the request keeps (spec/05 R106). -/
theorem resetPlan_keeps {x : State} (payload : List Byte) (hx : P x) (hreset : P x.planReset) :
    P (resetPlan payload x).1 := by
  unfold resetPlan
  split
  · split
    · exact hreset
    · exact hx
  · exact hx

/-- What the removal of records with the post that follows from HELD keeps, ACK RESULTS keeps (spec/05 R92,
spec/06 R121). -/
theorem ackResults_keeps {x : State} (payload : List Byte) (hx : P x)
    (hremove : ∀ n, P { x with queue := x.queue.remove n })
    (hpost : ∀ n v, x.seq.plan = .held → x.seq.heldVerdict = some v →
      P (({ x with queue := x.queue.remove n } : State).askToPost v)) : P (ackResults payload x).1 := by
  unfold ackResults
  split
  · dsimp only
    split
    · unfold State.askAgain
      split
      · next v hplan hheld => exact hpost _ v hplan hheld
      · exact hremove _
    · split <;> exact hx
  · exact hx

end Keeps

end Sys2Proof.Machine
end

section
/-! The Result Queue keeps its law through every command (spec/06 R108): records join it where there is room, numbered from
N on, and leave it from its oldest end. -/

namespace Sys2Proof.Machine

set_option Elab.async false

/-- A post leaves the queue as it stands, or the attempt's records join it where there is room (spec/05 R91, R92). -/
theorem State.askToPost_queue (v : Verdict) (s : State) :
    (s.askToPost v).queue = s.queue ∨
      s.queue.hasRoom (s.seq.recordsOf v s.queue.next).length = true ∧
        (s.askToPost v).queue = s.queue.append (s.seq.recordsOf v s.queue.next) := by
  rcases s.askToPost_cases v with ⟨room, h⟩ | ⟨-, h⟩ <;> rw [h]
  · refine .inr ⟨room, ?_⟩
    simp only [State.boundary_frame]
    unfold State.postRecords
    dsimp only
    split <;> simp
  · exact .inl rfl

/-- A post keeps the queue's law. -/
theorem State.askToPost_queue_sound (v : Verdict) {s : State} (hs : s.queue.sound) : (s.askToPost v).queue.sound := by
  rcases s.askToPost_queue v with h | ⟨room, h⟩ <;> rw [h]
  · exact hs
  · exact s.queue.append_sound _ hs room fun k hk => s.seq.recordsOf_sequence v s.queue.next k hk

/-- A close keeps the queue's law. -/
theorem State.closeUnit_queue_sound (s : State) (r : CloseReason) (u : Fin 8) (hs : s.queue.sound) :
    (s.closeUnit r u).queue.sound :=
  State.closeUnit_keeps (P := fun s => s.queue.sound) (fun _ _ _ _ hs _ _ => hs) (fun _ _ _ _ _ hs _ _ => hs)
    (fun _ _ hs _ _ => State.askToPost_queue_sound _ hs) s r u hs

/-- Every command keeps the queue's law. -/
theorem exec_queue_sound (c : Instr) (s s' : State) (hs : s.queue.sound) (h : exec c s = .next s') : s'.queue.sound := by
  refine exec_keeps (P := fun s => s.queue.sound) (bs := [.queue]) (by simp) ?same ?fresh ?command c s s' hs h
  case same =>
    intro s s' same hs
    have : s'.queue = s.queue := same .queue (by simp)
    rwa [this]
  case fresh =>
    rintro pins s ⟨-, -, -, -, -, queue, -⟩
    rw [queue]
    exact ⟨by simp, fun i hi => by simp at hi⟩
  case command =>
    intro c s s' htouched hreset hs h
    have finished : ∀ x b : State, x.queue.sound → (x.finish b).queue.sound := fun x b hx => by simpa using hx
    have taking : ∀ {row body t}, (∀ p x, x.queue.sound → (body p x).1.queue.sound) →
        ((s.advance t).takeRequest row body).queue.sound := fun {row body t} hbody =>
      State.takeRequest_keeps (P := fun s => s.queue.sound) hs (fun _ => hs) hbody (fun _ _ _ _ hx => hx)
        fun x => finished x _
    cases c <;> simp [touched, ownBlocks, takingOf] at htouched hreset
    case edgeReceipt =>
      exact execEdgeReceipt_keeps (P := fun s => s.queue.sound) hs (fun b left e hu he => finished _ _
        (State.receive_keeps (P := fun s => s.queue.sound) (fun _ _ _ _ hs _ _ => hs) State.closeUnit_queue_sound hs hu
          he)) h
    case stepTimerExpiry =>
      exact execStepTimerExpiry_keeps (P := fun s => s.queue.sound) hs (fun us =>
        State.expireAll_keeps (P := fun s => s.queue.sound) State.closeUnit_queue_sound
          (fun x b _ hx => finished x b hx) us hs) h
    case resetPlan =>
      cases h
      exact taking fun p x hx => resetPlan_keeps (P := fun s => s.queue.sound) p hx
        ⟨Nat.zero_le _, fun i hi => absurd hi (Nat.not_lt_zero i)⟩
    case ackResults =>
      cases h
      exact taking fun p x hx => ackResults_keeps (P := fun s => s.queue.sound) p hx
        (fun n => x.queue.remove_sound n hx) fun n v _ _ => State.askToPost_queue_sound v (x.queue.remove_sound n hx)
    case markStop =>
      cases h
      exact taking fun p x hx => markStop_keeps (P := fun s => s.queue.sound) State.closeUnit_queue_sound p hx
    case feed =>
      cases h
      exact taking fun p x hx => feed_keeps (P := fun s => s.queue.sound) (fun _ _ _ _ hs _ _ => hs)
        State.closeUnit_queue_sound p hx

/-- Settles O11: records join the queue at its newest end with the next numbers, and leave from its oldest end. -/
theorem stepKeepsQueueSound : Obligations.StepKeepsQueueSound := fun _ _ =>
  step_keeps (P := fun s => s.queue.sound) exec_queue_sound (fun _ _ hs => hs) fun _ _ hs => hs

end Sys2Proof.Machine
end

section
/-! The counts of every window, close report and record fit through every command (spec/03 R44, R45; spec/06 R111): a sample
counts at most one transition, and none without a sample before it. -/

namespace Sys2Proof.Machine

set_option Elab.async false

/-! ### One unit -/

/-- A sample counts itself, and at most one transition, none where it is the first. -/
theorem Bound.takeSample_countsSound {b : Bound} (sample : List Bool) (hb : b.countsSound) (h : b.phase = .opened) :
    (b.takeSample sample).countsSound := by
  obtain ⟨⟨htrans, hsamples⟩, hfirst, -⟩ := hb
  have hmax : Config.max32 = 2 ^ 32 - 1 := rfl
  have hnone : b.samples = 0 → b.isTransition sample = false := fun hz => by
    simp [Bound.isTransition, hfirst hz]
  refine ⟨⟨?_, Nat.min_le_left _ _⟩, fun hz => ?_, fun hp => ?_⟩
  · show (if b.isTransition sample then min (2 ^ 32 - 2) (b.transitions + 1) else b.transitions) ≤
      min Config.max32 (b.samples + 1) - 1
    split
    · next ht =>
      have : b.samples ≠ 0 := fun hz => by simp [hnone hz] at ht
      omega
    · omega
  · have : min Config.max32 (b.samples + 1) = 0 := hz
    omega
  · have : b.phase = .armed := hp
    rw [h] at this
    cases this

/-- A move keeps the counts of a unit sound. -/
theorem Bound.Moves.countsSound {now : Nat} {b c : Bound} (h : b.Moves now c) (hb : b.countsSound) : c.countsSound := by
  induction h with
  | received => exact hb
  | opened harmed =>
    obtain ⟨fit, -, hzero⟩ := hb
    exact ⟨fit, fun _ => rfl, fun _ => hzero harmed⟩
  | sampled hopen => exact Bound.takeSample_countsSound _ hb hopen
  | trans _ _ h1 h2 => exact h2 (h1 hb)

/-- A close keeps the counts. -/
theorem Bound.close_countsSound {b : Bound} (now : Nat) (reason : CloseReason) (hb : b.countsSound) :
    (b.close now reason).countsSound := by
  obtain ⟨fit, hfirst, -⟩ := hb
  exact ⟨fit, hfirst, nofun⟩

/-- An edge delivered leaves the counts. -/
theorem Bound.deliver_countsSound {b : Bound} (e : ProbeEdge) (hb : b.countsSound) : (b.deliver e).countsSound := by
  unfold Bound.deliver
  split <;> exact hb

/-- An armed unit has counted nothing. -/
theorem Bound.armed_countsSound (now : Nat) (l : Lane) (p : Profile) : (Bound.armed now l p).countsSound := by
  unfold Bound.armed
  split <;> exact ⟨⟨Nat.le_refl _, Nat.zero_le _⟩, fun _ => rfl, fun _ => rfl⟩

/-! ### The state -/

/-- The counts stay sound where every unit is one held before or sound, every report one held before, and every record
one held before or of counts that fit. -/
theorem State.countsSound_of {s s' : State} (hs : s.countsSound)
    (units : ∀ u : Fin 8, ∀ b, s'.units[u] = some b → s.units[u] = some b ∨ b.countsSound)
    (reports : ∀ i : Fin 8, ∀ c, s'.seq.reports[i] = some c → s.seq.reports[i] = some c)
    (records : ∀ r ∈ s'.queue.records, r ∈ s.queue.records ∨ countsFit r.samples r.transitions) : s'.countsSound := by
  obtain ⟨hu, hr, hq⟩ := hs
  exact ⟨fun u b h => (units u b h).elim (hu u b) id, fun i c h => hr i c (reports i c h),
    fun r h => (records r h).elim (hq r) id⟩

/-- The counts stay sound where units, reports and records stand. -/
theorem State.countsSound_congr {s s' : State} (units : s'.units = s.units) (reports : s'.seq.reports = s.seq.reports)
    (queue : s'.queue = s.queue) (hs : s.countsSound) : s'.countsSound := by
  unfold State.countsSound
  rw [units, reports, queue]
  exact hs

/-- A unit that takes sound counts keeps all counts sound. -/
theorem State.setUnit_countsSound {s : State} {u : Fin 8} {c : Bound} (hs : s.countsSound) (hc : c.countsSound) :
    (s.setUnit u c).countsSound := by
  refine State.countsSound_of hs (fun v b h => ?_) (fun _ _ => id) fun _ => .inl
  simp only [State.setUnit, getElem_set_fin] at h
  split at h
  · exact .inr (Option.some.inj h ▸ hc)
  · exact .inl h

/-- A report kept at a close has the counts of its unit. -/
theorem State.withReport_countsSound {s : State} {u i : Fin 8} {b : Bound} (reason : CloseReason) (hs : s.countsSound)
    (hu : s.units[u] = some b) : (s.withReport reason u b i).countsSound := by
  have hb := hs.1 u b hu
  obtain ⟨units, reports, records⟩ := State.setUnit_countsSound (u := u) hs (Bound.close_countsSound s.now reason hb)
  refine ⟨units, fun j c h => ?_, records⟩
  simp only [State.withReport, getElem_set_fin] at h
  split at h
  · rw [← Option.some.inj h]
    exact hb.1
  · exact reports j c h

/-- The arm of the units keeps the counts sound. -/
theorem State.armAll_countsSound (ls : List Lane) {s : State} (hs : s.countsSound) : (s.armAll ls).countsSound := by
  unfold State.armAll
  induction ls generalizing s with
  | nil => exact hs
  | cons l ls ih =>
    refine ih ?_
    show (s.armLane l).countsSound
    unfold State.armLane
    split
    · exact hs
    · exact State.setUnit_countsSound hs (Bound.armed_countsSound _ _ _)

/-- The end of the settle time keeps the counts sound. -/
theorem State.capture_countsSound {s : State} (hs : s.countsSound) : s.capture.countsSound := by
  unfold State.capture
  split
  · exact hs
  · exact State.countsSound_congr rfl rfl rfl (State.armAll_countsSound _ hs)

/-- The start of a step keeps the counts sound. -/
theorem State.startStep_countsSound {s : State} (hs : s.countsSound) : s.startStep.countsSound := by
  cases hstep : s.steps[s.seq.step] with
  | none => simpa only [State.startStep, hstep] using hs
  | some r =>
    rw [State.startStep_eq s r hstep]
    have begun : ∀ q : Sequencer, q.reports = Vector.replicate 8 none →
        ∀ fs, ({ s with seq := q, flags := fs } : State).countsSound := fun q hq fs =>
      State.countsSound_of hs (fun _ _ => .inl) (fun i c h => by simp [hq] at h) fun _ => .inl
    dsimp only
    split
    · exact begun _ rfl _
    · exact State.capture_countsSound (begun _ rfl _)

/-- The step boundary keeps the counts sound. -/
theorem State.boundary_countsSound (v : Verdict) {s : State} (hs : s.countsSound) : (s.boundary v).countsSound := by
  have released : (s.release.boundaryPulses v).countsSound := by
    refine State.countsSound_of hs (fun u b h => ?_) (fun i c h => ?_) fun r h => .inl (by simpa using h)
    · simp only [State.boundaryPulses_frame, State.release, getElem_ofFn_fin] at h
      split at h
      · cases h
      · exact .inl h
    · simp [State.release] at h
  unfold State.boundary
  rcases State.carryOut_cases (State.boundaryChoice v (s.release.boundaryPulses v)) (s.release.boundaryPulses v) with
    ⟨k, -, h⟩ | ⟨n, a, i, -, -, h⟩ | ⟨n, a, i, -, -, h⟩ <;> dsimp only <;> rw [h]
  · exact State.countsSound_congr rfl rfl rfl released
  · exact State.countsSound_congr rfl rfl rfl released
  · exact State.startStep_countsSound (State.countsSound_congr rfl rfl rfl released)

/-- The records of an attempt have the counts of its reports. -/
theorem Sequencer.recordsOf_countsFit {q : Sequencer} {v : Verdict} {n : BitVec 16}
    (h : ∀ i : Fin 8, ∀ c, q.reports[i] = some c → countsFit c.samples c.transitions) {r : ResultRecord}
    (hr : r ∈ q.recordsOf v n) : countsFit r.samples r.transitions := by
  obtain ⟨⟨⟨l, pos, c⟩, k⟩, hk, rfl⟩ := List.mem_map.mp hr
  have hjudged := List.fst_mem_of_mem_zipIdx hk
  unfold Sequencer.judged at hjudged
  split at hjudged
  · cases hjudged
  · obtain ⟨x, -, hx⟩ := List.mem_filterMap.mp hjudged
    obtain ⟨d, hd, heq⟩ := Option.map_eq_some_iff.mp hx
    cases heq
    unfold Sequencer.reportAt at hd
    split at hd
    · exact h ⟨x.2, ‹_›⟩ _ hd
    · cases hd

/-- A post keeps the counts sound. -/
theorem State.askToPost_countsSound (v : Verdict) {s : State} (hs : s.countsSound) : (s.askToPost v).countsSound := by
  rcases s.askToPost_cases v with ⟨-, h⟩ | ⟨-, h⟩ <;> rw [h]
  · refine State.boundary_countsSound v (State.countsSound_of hs (fun u b h => .inl (by simpa using h))
      (fun _ _ => id) fun r h => ?_)
    have hqueue : (s.postRecords (s.seq.recordsOf v s.queue.next)).queue =
        s.queue.append (s.seq.recordsOf v s.queue.next) := by
      unfold State.postRecords
      dsimp only
      split <;> simp
    have hmem : r ∈ (s.postRecords (s.seq.recordsOf v s.queue.next)).queue.records := h
    rw [hqueue] at hmem
    exact (List.mem_append.mp hmem).imp id (Sequencer.recordsOf_countsFit hs.2.1)
  · exact State.countsSound_congr rfl rfl rfl hs

/-- A close keeps the counts sound. -/
theorem State.closeUnit_countsSound (s : State) (r : CloseReason) (u : Fin 8) (hs : s.countsSound) :
    (s.closeUnit r u).countsSound :=
  State.closeUnit_keeps (fun _ u b _ hs hu _ => State.setUnit_countsSound hs (Bound.close_countsSound _ _ (hs.1 u b hu)))
    (fun _ _ _ r _ hs hu _ => State.withReport_countsSound r hs hu)
    (fun _ _ hs _ _ => State.askToPost_countsSound _ (State.countsSound_congr rfl rfl rfl hs)) s r u hs

/-- A move keeps the counts sound. -/
theorem State.setUnit_moves_countsSound (s : State) (u : Fin 8) (b c : Bound) (hs : s.countsSound)
    (hu : s.units[u] = some b) (h : b.Moves s.now c) : (s.setUnit u c).countsSound :=
  State.setUnit_countsSound hs (h.countsSound (hs.1 u b hu))

/-! ### The requests and the commands -/

/-- A line that takes a level keeps the counts sound. -/
theorem State.setLine_countsSound (n : Fin 16) (p : ProbeLine) {s : State} (hs : s.countsSound) :
    (s.setLine n p).countsSound := by
  unfold State.setLine
  dsimp only
  split
  · exact hs
  · refine State.countsSound_of hs (fun u b h => ?_) (fun _ _ => id) fun _ => .inl
    simp only [State.deliverEdge, getElem_ofFn_fin] at h
    obtain ⟨b0, hb0, rfl⟩ := Option.map_eq_some_iff.mp h
    exact .inr (Bound.deliver_countsSound _ (hs.1 u b0 hb0))

/-- A filter that accepts keeps the counts sound. -/
theorem State.acceptDue_countsSound (n : Fin 16) {s : State} (hs : s.countsSound) : (s.acceptDue n).countsSound := by
  unfold State.acceptDue
  split
  · exact State.setLine_countsSound n _ hs
  · exact hs

/-- SET PROBE keeps the counts sound. -/
theorem setProbe_countsSound (payload : List Byte) {s : State} (hs : s.countsSound) :
    (setProbe payload s).1.countsSound := by
  have lines : ∀ (mask : BitVec 16) (invert : Bool) (filter : Nat), (s.configureLines mask invert filter).countsSound := by
    intro mask invert filter
    unfold State.configureLines
    generalize allLines = ns
    induction ns generalizing s with
    | nil => exact hs
    | cons n ns ih =>
      refine ih ?_
      dsimp only
      split
      · exact State.setLine_countsSound n _ hs
      · exact hs
  unfold setProbe
  split
  · split
    · exact hs
    · exact lines _ _ _
  · exact hs

/-- MARK START keeps the counts sound. -/
theorem markStart_countsSound (payload : List Byte) {s : State} (hs : s.countsSound) :
    (markStart payload s).1.countsSound := by
  unfold markStart
  split
  · split
    · exact hs
    · refine State.countsSound_of hs (fun u b h => ?_) (fun _ _ => id) fun _ => .inl
      simp only [getElem_ofFn_fin] at h
      split at h
      · next hmem =>
        obtain ⟨b0, hb0, rfl⟩ := Option.map_eq_some_iff.mp h
        have harmed : b0.phase = .armed := by
          have haccepts := (List.mem_filter.mp hmem).2
          rw [hb0] at haccepts
          simp [Bound.acceptsStart] at haccepts
          exact haccepts.2.1
        exact .inr ((Bound.Moves.opened (now := s.now) harmed).countsSound (hs.1 u b0 hb0))
      · exact .inl h
  · exact hs

/-- A run stopped from outside keeps the counts sound. -/
theorem State.stopRun_countsSound {s : State} (hs : s.countsSound) : s.stopRun.countsSound :=
  State.countsSound_of hs (fun u b h => by simp [State.stopRun, State.restPatterns] at h)
    (fun i c h => by simp [State.stopRun, State.restPatterns] at h) fun _ => .inl

/-- A PLAN reset keeps the counts sound. -/
theorem State.planReset_countsSound {s : State} (hs : s.countsSound) : s.planReset.countsSound := by
  have ended : (if s.seq.plan = .idle then s.restPatterns else s.stopRun).countsSound := by
    split
    · exact State.countsSound_congr rfl rfl rfl hs
    · exact State.stopRun_countsSound hs
  exact State.countsSound_of ended (fun _ _ => .inl) (fun _ _ => id) fun r h => absurd h List.not_mem_nil

/-- Records removed leave the counts sound. -/
theorem State.remove_countsSound {s : State} (n : Nat) (hs : s.countsSound) :
    ({ s with queue := s.queue.remove n } : State).countsSound :=
  State.countsSound_of hs (fun _ _ => .inl) (fun _ _ => id) fun _ h => .inl (List.mem_of_mem_drop h)

/-- Every command keeps the counts sound. -/
theorem exec_countsSound (c : Instr) (s s' : State) (hs : s.countsSound) (h : exec c s = .next s') : s'.countsSound := by
  refine exec_keeps (P := State.countsSound) (bs := [.units, .seq, .queue]) (by simp) ?same ?fresh ?command c s s' hs h
  case same =>
    intro s s' same
    have hseq : s'.seq = s.seq := same .seq (by simp)
    exact State.countsSound_congr (same .units (by simp)) (by rw [hseq]) (same .queue (by simp))
  case fresh =>
    rintro pins s ⟨-, -, -, units, seq, queue, -⟩
    exact ⟨fun u b h => by simp [units u] at h, fun i c h => by simp [seq] at h, fun r h => by simp [queue] at h⟩
  case command =>
    intro c s s' htouched hreset hs h
    have advanced : ∀ t, (s.advance t).countsSound := fun t => State.countsSound_congr rfl rfl rfl hs
    have finished : ∀ x b : State, x.countsSound → (x.finish b).countsSound := fun x b hx =>
      State.countsSound_congr (by simp) (by simp) (by simp) hx
    have taking : ∀ {row body t}, (∀ p x, x.countsSound → (body p x).1.countsSound) →
        ((s.advance t).takeRequest row body).countsSound := fun {row body t} hbody =>
      State.takeRequest_keeps (advanced t) (fun _ => State.countsSound_congr rfl rfl rfl hs) hbody
        (fun _ _ _ _ => State.countsSound_congr rfl rfl rfl) fun x => finished x _
    cases c <;> simp [touched, ownBlocks, takingOf] at htouched hreset
    case edgeReceipt t u n kind =>
      exact execEdgeReceipt_keeps (advanced t) (fun b left e hu he => finished _ _
        (State.receive_keeps State.setUnit_moves_countsSound State.closeUnit_countsSound (advanced t) hu he)) h
    case stepTimerExpiry t =>
      exact execStepTimerExpiry_keeps (advanced t) (fun us =>
        State.expireAll_keeps State.closeUnit_countsSound (fun x b _ hx => finished x b hx) us
          (State.countsSound_congr rfl rfl rfl hs)) h
    case settleEnd t =>
      exact execSettleEnd_keeps (advanced t) (fun _ => finished _ _ (State.capture_countsSound (advanced t))) h
    case pinChange t n level =>
      simp only [exec, execPinChange] at h
      split at h
      · cases h
        exact advanced t
      · split at h <;> cases h
        · exact State.countsSound_congr rfl rfl rfl hs
        · exact State.setLine_countsSound n _ (State.acceptDue_countsSound n (advanced t))
    all_goals cases h
    case filterExpiry t n => exact State.acceptDue_countsSound n (advanced t)
    case setProbe => exact taking fun p x hx => setProbe_countsSound p hx
    case run =>
      exact taking fun p x hx => runPlan_keeps p hx fun f l k n _ _ =>
        State.startStep_countsSound (State.countsSound_congr rfl rfl rfl hx)
    case ackResults =>
      exact taking fun p x hx => ackResults_keeps p hx (fun n => State.remove_countsSound n hx)
        fun n v _ _ => State.askToPost_countsSound v (State.remove_countsSound n hx)
    case markStart => exact taking fun p x hx => markStart_countsSound p hx
    case markStop => exact taking fun p x hx => markStop_keeps State.closeUnit_countsSound p hx
    case feed => exact taking fun p x hx => feed_keeps State.setUnit_moves_countsSound State.closeUnit_countsSound p hx
    case resetPlan => exact taking fun p x hx => resetPlan_keeps p hx (State.planReset_countsSound hx)
    case pause =>
      exact taking fun p x hx => noParameters_keeps p hx (pausePlan_keeps hx (State.countsSound_congr rfl rfl rfl hx))
    case resume =>
      exact taking fun p x hx => noParameters_keeps p hx (resumePlan_keeps hx (fun _ => State.startStep_countsSound hx)
        (State.countsSound_congr rfl rfl rfl hx))
    case abort =>
      exact taking fun p x hx => noParameters_keeps p hx (abortPlan_keeps hx fun _ =>
        State.countsSound_congr (s := x.stopRun) rfl rfl rfl (State.stopRun_countsSound hx))

/-- Settles O10: a sample counts at most one transition and the first none, and reports and records copy the counts. -/
theorem stepKeepsCountsSound : Obligations.StepKeepsCountsSound := fun _ _ =>
  step_keeps exec_countsSound (fun _ _ => State.countsSound_congr rfl rfl rfl)
    fun _ _ => State.countsSound_congr rfl rfl rfl

end Sys2Proof.Machine
end

section
/-! The units stand to the plan as the step copy says (spec/03 R34, spec/05 R85, R87, R91): a unit is bound only while the step
in progress names it, and it is CLOSED exactly when its report is there. -/

namespace Sys2Proof.Machine

set_option Elab.async false

/-- Every unit is IDLE. -/
def State.unitsFree (s : State) : Prop := ∀ u : Fin 8, s.units[u] = none

/-- A step is at its units: CAPTURING or HELD. -/
def PlanState.atUnits (p : PlanState) : Prop := p = .capturing ∨ p = .held

/-- The law of the units speaks of the units, the steps and the items of the step in progress. -/
theorem State.unitsBound_congr {s s' : State} (units : s'.units = s.units) (steps : s'.steps = s.steps)
    (plan : s'.seq.plan = s.seq.plan) (copy : s'.seq.stepCopy = s.seq.stepCopy) (step : s'.seq.step = s.seq.step)
    (reports : s'.seq.reports = s.seq.reports) (hs : s.unitsBound) : s'.unitsBound := by
  obtain ⟨named, copied, fresh, bound, closed⟩ := hs
  constructor
  · simpa only [units, plan, Sequencer.namesUnit, copy] using named
  · simpa only [plan, copy, steps, step] using copied
  · simpa only [plan, reports] using fresh
  · simpa only [plan, copy, units, reports] using bound
  · simpa only [plan, units] using closed

/-- With no step in progress the law asks for IDLE units alone. -/
theorem State.unitsBound_of_free {s : State} (hplan : s.seq.plan = .idle ∨ s.seq.plan = .paused) (hfree : s.unitsFree) :
    s.unitsBound := by
  constructor
  · exact fun u h => absurd (hfree u) h
  · rintro (h | h | h) <;> rw [h] at hplan <;> simp at hplan
  · intro h
    rw [h] at hplan
    simp at hplan
  · rintro (h | h) <;> rw [h] at hplan <;> simp at hplan
  · intro h
    rw [h] at hplan
    simp at hplan

section
variable {s : State} (hb : s.unitsBound)
include hb

/-- A unit that is not IDLE is at a step. -/
theorem State.unitsBound.atUnits {u : Fin 8} (hu : s.units[u] ≠ none) : s.seq.plan.atUnits := (hb.named u hu).1

/-- With no step at its units they are all IDLE. -/
theorem State.unitsBound.free (h : ¬s.seq.plan.atUnits) : s.unitsFree := fun u => by
  by_contra hu
  exact h (hb.atUnits hu)

/-- A step in progress is held as the record of the current step, which its law bounds. -/
theorem State.unitsBound.record (ht : s.tablesSound) (h : s.seq.plan = .settling ∨ s.seq.plan.atUnits) :
    ∃ r, s.seq.stepCopy = some r ∧ s.steps[s.seq.step] = some r ∧ r.wellFormed s.widthAt = true := by
  obtain ⟨hcopy, hsome⟩ := hb.copied h
  obtain ⟨r, hr⟩ := Option.ne_none_iff_exists'.mp hsome
  exact ⟨r, hr, hcopy ▸ hr, (ht.2 _ r (hcopy ▸ hr)).2⟩

/-- A unit that is not IDLE has a lane of the step. -/
theorem State.unitsBound.lane {r : StepRecord} (hr : s.seq.stepCopy = some r) (h8 : r.lanes.length ≤ 8) {u : Fin 8}
    (hu : s.units[u] ≠ none) : ∃ (j : Fin 8) (l : Lane), r.lanes[j.val]? = some l ∧ l.unit = u := by
  have hnamed := (hb.named u hu).2
  simp only [Sequencer.namesUnit, hr, Option.any_some, List.any_eq_true, decide_eq_true_eq] at hnamed
  obtain ⟨l, hl, hlu⟩ := hnamed
  obtain ⟨j, hj⟩ := List.mem_iff_getElem?.mp hl
  have hlt := (List.getElem?_eq_some_iff.mp hj).1
  exact ⟨⟨j, by omega⟩, l, hj, hlu⟩

/-- Units that stay bound, CLOSED or not as before, keep the law. -/
theorem State.unitsBound.of_units {s' : State} (steps : s'.steps = s.steps) (seq : s'.seq = s.seq)
    (units : ∀ u : Fin 8, s'.units[u] = s.units[u] ∨
      ∃ b c, s.units[u] = some b ∧ s'.units[u] = some c ∧ (c.phase = .closed ↔ b.phase = .closed)) : s'.unitsBound := by
  have back : ∀ u : Fin 8, ∀ c, s'.units[u] = some c →
      ∃ b, s.units[u] = some b ∧ (c.phase = .closed ↔ b.phase = .closed) := fun u c hc => by
    rcases units u with h | ⟨b, d, hb', hd, hiff⟩
    · exact ⟨c, h ▸ hc, Iff.rfl⟩
    · rw [hd] at hc
      obtain rfl := Option.some.inj hc
      exact ⟨b, hb', hiff⟩
  constructor
  · intro u hu
    obtain ⟨c, hc⟩ := Option.ne_none_iff_exists'.mp hu
    obtain ⟨b, hb', -⟩ := back u c hc
    rw [seq]
    exact hb.named u (by simp [hb'])
  · simpa only [seq, steps] using hb.copied
  · rw [seq]
    exact hb.fresh
  · rw [seq]
    intro hp r j l hr hl
    obtain ⟨b, hb', hiff⟩ := hb.bound hp r j l hr hl
    rcases units l.unit with h | ⟨b2, c, hb2, hc, hiff2⟩
    · exact ⟨b, h ▸ hb', hiff⟩
    · rw [hb'] at hb2
      obtain rfl := Option.some.inj hb2
      exact ⟨c, hc, hiff2.trans hiff⟩
  · rw [seq]
    intro hp u c hc
    obtain ⟨b, hb', hiff⟩ := back u c hc
    exact hiff.mpr (hb.closed hp u b hb')

end

/-! ### The start of a step -/

/-- A step that has come to its units from IDLE ones meets the law. -/
theorem State.unitsBound_of_capturing {x y : State} {r : StepRecord} (hcap : capturing r x y)
    (hcopy : y.seq.stepCopy = some r) (hrecord : y.steps[y.seq.step] = some r)
    (hreports : ∀ i : Fin 8, y.seq.reports[i] = none) (hfree : x.unitsFree) (hwf : r.wellFormed x.widthAt = true) :
    y.unitsBound := by
  obtain ⟨hplan, -, -, armed, others⟩ := hcap
  obtain ⟨-, -, -, -, -, -, hlanes⟩ := StepRecord.wellFormed_iff.mp hwf
  constructor
  · refine fun u hu => ⟨.inl hplan, ?_⟩
    by_contra hno
    refine hu ((others u fun l hl hlu => hno ?_).trans (hfree u))
    simp only [Sequencer.namesUnit, hcopy, Option.any_some, List.any_eq_true, decide_eq_true_eq]
    exact ⟨l, hl, hlu⟩
  · exact fun _ => ⟨by rw [hcopy, hrecord], by simp [hcopy]⟩
  · exact fun _ => hreports
  · intro _ r' j l hr hl
    obtain rfl : r = r' := Option.some.inj (hcopy.symm.trans hr)
    have hmem := List.mem_of_getElem? hl
    obtain ⟨w, hw, -⟩ := hlanes l hmem
    obtain ⟨p, hp, -⟩ := Option.map_eq_some_iff.mp hw
    refine ⟨_, armed l hmem p hp, ?_⟩
    simp only [hreports j, ne_eq, not_true_eq_false, iff_false]
    split <;> simp
  · intro hheld
    rw [hplan] at hheld
    cases hheld

/-- A step that starts with every unit IDLE meets the law. -/
theorem State.startStep_unitsBound {s : State} {r : StepRecord} (ht : s.tablesSound) (hfree : s.unitsFree)
    (hr : s.steps[s.seq.step] = some r) : s.startStep.unitsBound := by
  have hwf := (ht.2 _ r hr).2
  have begins := State.startStep_begins s r hr hwf
  have hstep : s.startStep.seq.step = s.seq.step := by rw [begins.kept]
  have hrecord : s.startStep.steps[s.startStep.seq.step] = some r := by
    simpa only [begins.steps, hstep] using hr
  have goes := begins.goes
  split at goes
  · obtain ⟨hplan, -, -, hunits⟩ := goes
    constructor
    · intro u hu
      rw [hunits] at hu
      exact absurd (hfree u) hu
    · exact fun _ => ⟨by rw [begins.copy, hrecord], by simp [begins.copy]⟩
    · exact fun _ => begins.reports
    · rintro (h | h) <;> rw [hplan] at h <;> cases h
    · intro h
      rw [hplan] at h
      cases h
  · exact State.unitsBound_of_capturing goes begins.copy hrecord begins.reports hfree hwf

/-- The end of the settle time meets the law. -/
theorem State.capture_unitsBound {s : State} (ht : s.tablesSound) (hb : s.unitsBound) (hplan : s.seq.plan = .settling) :
    s.capture.unitsBound := by
  obtain ⟨r, hcopy, hrecord, hwf⟩ := hb.record ht (.inl hplan)
  have hcap := State.capture_capturing s r hcopy hwf
  have hfree := hb.free (by simp [PlanState.atUnits, hplan])
  have heq := State.capture_eq s r hcopy
  refine State.unitsBound_of_capturing hcap ?_ ?_ ?_ hfree hwf <;> rw [heq]
  · exact hcopy
  · exact hrecord
  · exact hb.fresh hplan

/-! ### The step boundary and the step end -/

/-- At a boundary the units of the step become IDLE, and what starts next meets the law (spec/05 R93 to R97). -/
theorem State.boundary_unitsBound (v : Verdict) {s : State} (ht : s.tablesSound) (hb : s.unitsBound)
    (hp : s.seq.plan.atUnits) : (s.boundary v).unitsBound := by
  obtain ⟨r, hcopy, hrecord, hwf⟩ := hb.record ht (.inr hp)
  have hfree : (s.release.boundaryPulses v).unitsFree := fun u => by
    simp only [State.boundaryPulses_frame, State.release, getElem_ofFn_fin]
    split
    · rfl
    · next hno =>
      by_contra hu
      exact hno (hb.named u hu).2
  have tables : ∀ q : Sequencer, ({ s.release.boundaryPulses v with seq := q } : State).tablesSound := fun q =>
    State.tablesSound_congr (by simp) (by simp) ht
  unfold State.boundary
  rcases State.carryOut_cases (State.boundaryChoice v (s.release.boundaryPulses v)) (s.release.boundaryPulses v) with
    ⟨k, -, h⟩ | ⟨n, a, i, -, -, h⟩ | ⟨n, a, i, hchoice, -, h⟩ <;> dsimp only <;> rw [h]
  · exact State.unitsBound_of_free (.inl rfl) hfree
  · exact State.unitsBound_of_free (.inr rfl) hfree
  · have hdefined := State.boundaryChoice_defined v _ (by simp [State.release, hrecord]) n a i hchoice
    obtain ⟨r', hr'⟩ := Option.ne_none_iff_exists'.mp hdefined
    exact State.startStep_unitsBound (tables _) hfree hr'

/-- With every unit of the step CLOSED a post keeps the law: the boundary follows, or the plan is HELD. -/
theorem State.askToPost_unitsBound (v : Verdict) {s : State} (ht : s.tablesSound) (hb : s.unitsBound)
    (hp : s.seq.plan.atUnits) (hclosed : ∀ (u : Fin 8) (b : Bound), s.units[u] = some b → b.phase = .closed) :
    (s.askToPost v).unitsBound := by
  rcases s.askToPost_cases v with ⟨-, h⟩ | ⟨-, h⟩ <;> rw [h]
  · exact State.boundary_unitsBound v (State.tablesSound_congr (by simp) (by simp) ht)
      (State.unitsBound_congr (s := s) (by simp) (by simp) rfl rfl rfl rfl hb) hp
  · exact ⟨fun u hu => ⟨.inr rfl, (hb.named u hu).2⟩, fun _ => hb.copied (.inr hp), nofun, fun _ => hb.bound hp,
      fun _ => hclosed⟩

/-- The end of a step with every lane reported keeps the law. -/
theorem State.endStep_unitsBound {s : State} (ht : s.tablesSound) (hb : s.unitsBound) {u : Fin 8}
    (hu : s.units[u] ≠ none) (hall : s.seq.allReported = true) : s.endStep.unitsBound := by
  have hp := hb.atUnits hu
  obtain ⟨r, hcopy, -, hwf⟩ := hb.record ht (.inr hp)
  obtain ⟨-, h8, -⟩ := StepRecord.wellFormed_iff.mp hwf
  have reported := (Sequencer.allReported_iff hcopy h8).mp hall
  refine State.askToPost_unitsBound _ (State.tablesSound_congr rfl rfl ht)
    (State.unitsBound_congr (s := s) rfl rfl rfl rfl rfl rfl hb) hp fun w b hw => ?_
  have hw' : s.units[w] = some b := hw
  obtain ⟨j, l, hl, rfl⟩ := hb.lane hcopy h8 (u := w) (by simp [hw'])
  obtain ⟨b', hb', hiff⟩ := hb.bound hp r j l hcopy hl
  obtain rfl := Option.some.inj (hw'.symm.trans hb')
  exact hiff.mpr (reported j l hl)

/-! ### Moves and closes of units -/

/-- A move of a unit keeps the law. -/
theorem State.setUnit_unitsBound {s : State} {u : Fin 8} {b c : Bound} (hb : s.unitsBound) (hu : s.units[u] = some b)
    (hiff : c.phase = .closed ↔ b.phase = .closed) : (s.setUnit u c).unitsBound := by
  refine hb.of_units rfl rfl fun w => ?_
  simp only [State.setUnit, getElem_set_fin]
  split
  · next hw => exact .inr ⟨b, c, hw ▸ hu, rfl, hiff⟩
  · exact .inl rfl

/-- Of two positions of a step no two name one unit. -/
theorem StepRecord.position_unique {r : StepRecord} (hnodup : (r.lanes.map (·.unit)).Nodup) {i j : Nat} {l m : Lane}
    (hi : r.lanes[i]? = some l) (hj : r.lanes[j]? = some m) (h : l.unit = m.unit) : i = j := by
  have hlt : i < (r.lanes.map (·.unit)).length := by
    rw [List.length_map]
    exact (List.getElem?_eq_some_iff.mp hi).1
  refine (List.getElem?_inj hlt hnodup).mp ?_
  simp only [List.getElem?_map, hi, hj, Option.map_some, h]

/-- A close keeps the law: its unit is CLOSED and its report is there. -/
theorem State.withReport_unitsBound {s : State} {u i : Fin 8} {b : Bound} (reason : CloseReason) (ht : s.tablesSound)
    (hb : s.unitsBound) (hu : s.units[u] = some b) (hlane : s.seq.laneOf u = some i.val) :
    (s.withReport reason u b i).unitsBound := by
  have hp := hb.atUnits (u := u) (by simp [hu])
  obtain ⟨r, hcopy, hrecord, hwf⟩ := hb.record ht (.inr hp)
  obtain ⟨-, h8, hnodup, -⟩ := StepRecord.wellFormed_iff.mp hwf
  obtain ⟨li, hli, hliu⟩ := Sequencer.laneOf_eq_some hcopy hlane
  have unit : ∀ w : Fin 8, (s.withReport reason u b i).units[w] =
      if w = u then some (b.close s.now reason) else s.units[w] := fun w => getElem_set_fin _ _ _ _
  have report : ∀ j : Fin 8, (s.withReport reason u b i).seq.reports[j] =
      if j = i then some (b.report u s.now reason) else s.seq.reports[j] := fun j => getElem_set_fin _ _ _ _
  constructor
  · intro w hw
    refine hb.named w ?_
    rw [unit] at hw
    split at hw
    · next h => simp [h, hu]
    · exact hw
  · exact hb.copied
  · intro hsettling
    have : s.seq.plan = .settling := hsettling
    rw [PlanState.atUnits, this] at hp
    simp at hp
  · intro _ r' j l hr hl
    obtain rfl : r = r' := Option.some.inj (hcopy.symm.trans hr)
    rw [unit, report]
    by_cases hlu : l.unit = u
    · have hji : j = i := Fin.ext (StepRecord.position_unique hnodup hl hli (hlu.trans hliu.symm))
      rw [if_pos hlu, if_pos hji]
      exact ⟨_, rfl, by simp [Bound.close]⟩
    · have hji : j ≠ i := by
        rintro rfl
        rw [hli] at hl
        obtain rfl := Option.some.inj hl
        exact hlu hliu
      rw [if_neg hlu, if_neg hji]
      exact hb.bound hp r j l hcopy hl
  · intro hheld w c hc
    rw [unit] at hc
    split at hc
    · rw [← Option.some.inj hc]
      rfl
    · exact hb.closed hheld w c hc

/-- A unit that is not IDLE has a lane among the first eight. -/
theorem State.unitsBound.laneOf {s : State} (ht : s.tablesSound) (hb : s.unitsBound) {u : Fin 8}
    (hu : s.units[u] ≠ none) : ∃ i : Fin 8, s.seq.laneOf u = some i.val := by
  obtain ⟨r, hcopy, -, hwf⟩ := hb.record ht (.inr (hb.atUnits hu))
  obtain ⟨-, h8, -⟩ := StepRecord.wellFormed_iff.mp hwf
  obtain ⟨j, l, hl, hlu⟩ := hb.lane hcopy h8 hu
  cases hfound : s.seq.laneOf u with
  | some i =>
    obtain ⟨m, hm, -⟩ := Sequencer.laneOf_eq_some hcopy hfound
    have hlt := (List.getElem?_eq_some_iff.mp hm).1
    exact ⟨⟨i, by omega⟩, rfl⟩
  | none =>
    simp only [Sequencer.laneOf, hcopy, Option.bind_some, List.findIdx?_eq_none_iff] at hfound
    have := hfound l (List.mem_of_getElem? hl)
    simp [hlu] at this

/-! ### The requests and the commands -/

/-- The tables are sound and the units stand to the plan as they should. -/
def State.stepsBound (s : State) : Prop := s.tablesSound ∧ s.unitsBound

/-- Blocks that stand keep both laws. -/
theorem State.stepsBound_congr {s s' : State} (profiles : s'.profiles = s.profiles) (steps : s'.steps = s.steps)
    (units : s'.units = s.units) (plan : s'.seq.plan = s.seq.plan) (copy : s'.seq.stepCopy = s.seq.stepCopy)
    (step : s'.seq.step = s.seq.step) (reports : s'.seq.reports = s.seq.reports) (hs : s.stepsBound) : s'.stepsBound :=
  ⟨State.tablesSound_congr profiles steps hs.1, State.unitsBound_congr units steps plan copy step reports hs.2⟩

/-- A close keeps both laws. -/
theorem State.closeUnit_stepsBound (s : State) (r : CloseReason) (u : Fin 8) (hs : s.stepsBound) :
    (s.closeUnit r u).stepsBound := by
  refine State.closeUnit_keeps ?_ ?_ ?_ s r u hs
  · rintro s u b r ⟨ht, hb⟩ hu hno
    obtain ⟨i, hi⟩ := hb.laneOf ht (u := u) (by simp [hu])
    exact absurd hi (hno i)
  · exact fun s u b r i hs hu hlane =>
      ⟨State.tablesSound_congr rfl rfl hs.1, State.withReport_unitsBound r hs.1 hs.2 hu hlane⟩
  · exact fun s u hs hu hall =>
      ⟨State.tablesSound_congr (by simp) (by simp) hs.1, State.endStep_unitsBound hs.1 hs.2 hu hall⟩

/-- A move keeps both laws. -/
theorem State.setUnit_stepsBound (s : State) (u : Fin 8) (b c : Bound) (hs : s.stepsBound) (hu : s.units[u] = some b)
    (h : b.Moves s.now c) : (s.setUnit u c).stepsBound :=
  ⟨State.tablesSound_congr rfl rfl hs.1, State.setUnit_unitsBound hs.2 hu h.closed_iff⟩

/-- A step started from PAUSED or by a RUN keeps both laws; with no record it starts nothing. -/
theorem State.startStep_stepsBound {s : State} (ht : s.tablesSound) (hplan : s.seq.plan = .idle ∨ s.seq.plan = .paused)
    (hfree : s.unitsFree) : s.startStep.stepsBound := by
  refine ⟨State.tablesSound_congr (by simp) (by simp) ht, ?_⟩
  cases hr : s.steps[s.seq.step] with
  | none => simpa only [State.startStep, hr] using State.unitsBound_of_free hplan hfree
  | some r => exact State.startStep_unitsBound ht hfree hr

/-- A line that takes a level keeps both laws. -/
theorem State.setLine_stepsBound (n : Fin 16) (p : ProbeLine) {s : State} (hs : s.stepsBound) :
    (s.setLine n p).stepsBound := by
  refine ⟨State.tablesSound_congr (by simp) (by simp) hs.1, ?_⟩
  unfold State.setLine
  dsimp only
  split
  · exact State.unitsBound_congr (s := s) rfl rfl rfl rfl rfl rfl hs.2
  · refine hs.2.of_units rfl rfl fun u => ?_
    simp only [State.deliverEdge, getElem_ofFn_fin]
    cases hu : s.units[u] with
    | none => exact .inl rfl
    | some b =>
      refine .inr ⟨b, _, rfl, rfl, ?_⟩
      unfold Bound.deliver
      split <;> rfl

/-- A filter that accepts keeps both laws. -/
theorem State.acceptDue_stepsBound (n : Fin 16) {s : State} (hs : s.stepsBound) : (s.acceptDue n).stepsBound := by
  unfold State.acceptDue
  split
  · exact State.setLine_stepsBound n _ hs
  · exact hs

/-- SET PROBE keeps both laws. -/
theorem setProbe_stepsBound (payload : List Byte) {s : State} (hs : s.stepsBound) : (setProbe payload s).1.stepsBound := by
  have lines : ∀ (mask : BitVec 16) (invert : Bool) (filter : Nat), (s.configureLines mask invert filter).stepsBound := by
    intro mask invert filter
    unfold State.configureLines
    generalize allLines = ns
    induction ns generalizing s with
    | nil => exact hs
    | cons n ns ih =>
      refine ih ?_
      dsimp only
      split
      · exact State.setLine_stepsBound n _ hs
      · exact hs
  unfold setProbe
  split
  · split
    · exact hs
    · exact lines _ _ _
  · exact hs

/-- MARK START keeps both laws: an ARMED unit that opens is CLOSED neither before nor after. -/
theorem markStart_stepsBound (payload : List Byte) {s : State} (hs : s.stepsBound) :
    (markStart payload s).1.stepsBound := by
  unfold markStart
  split
  · split
    · exact hs
    · refine ⟨State.tablesSound_congr rfl rfl hs.1, hs.2.of_units rfl rfl fun u => ?_⟩
      simp only [getElem_ofFn_fin]
      split
      · next hmem =>
        have haccepts := (List.mem_filter.mp hmem).2
        cases hu : s.units[u] with
        | none => simp [hu] at haccepts
        | some b =>
          simp [hu, Bound.acceptsStart] at haccepts
          exact .inr ⟨b, _, rfl, rfl, (Bound.Moves.opened (now := s.now) haccepts.2.1).closed_iff⟩
      · exact .inl rfl
  · exact hs

/-- A request on the tables that leaves steps and units alone keeps both laws. -/
theorem State.stepsBound_of_profiles {s s' : State} (hs : s.stepsBound) (ht : s'.tablesSound)
    (h : reaches [.profiles] s s') : s'.stepsBound := by
  have hseq : s'.seq = s.seq := h.2.1 .seq (by simp)
  exact ⟨ht, State.unitsBound_congr (h.2.1 .units (by simp)) (h.2.1 .steps (by simp)) (by rw [hseq]) (by rw [hseq])
    (by rw [hseq]) (by rw [hseq]) hs.2⟩

/-- A request on the Step Table is carried out in IDLE alone, and keeps both laws (spec/04 R70, R76). -/
theorem State.stepsBound_of_steps {s s' : State} (hs : s.stepsBound) (ht : s'.tablesSound) (h : reaches [.steps] s s')
    (hidle : s.seq.plan = .idle ∨ s' = s) : s'.stepsBound := by
  rcases hidle with hidle | rfl
  · have hseq : s'.seq = s.seq := h.2.1 .seq (by simp)
    have hunits : s'.units = s.units := h.2.1 .units (by simp)
    refine ⟨ht, State.unitsBound_of_free (.inl (by rw [hseq, hidle])) fun u => ?_⟩
    rw [hunits]
    exact hs.2.free (by simp [PlanState.atUnits, hidle]) u
  · exact hs

/-- Outside IDLE a DEFINE STEP changes nothing. -/
theorem defineStep_idle (payload : List Byte) (s : State) : s.seq.plan = .idle ∨ (defineStep payload s).1 = s := by
  refine (Classical.em _).imp_right fun h => ?_
  unfold defineStep
  split
  · rfl
  · rw [if_pos h]

/-- Outside IDLE an ERASE STEPS changes nothing. -/
theorem eraseSteps_idle (payload : List Byte) (s : State) : s.seq.plan = .idle ∨ (eraseSteps payload s).1 = s := by
  refine (Classical.em _).imp_right fun h => ?_
  unfold eraseSteps
  split
  · rw [if_pos h]
  · rfl

/-- A run stopped from outside leaves every unit IDLE, which keeps both laws. -/
theorem State.stopRun_stepsBound {s : State} (hs : s.stepsBound) : s.stopRun.stepsBound :=
  ⟨State.tablesSound_congr rfl rfl hs.1, State.unitsBound_of_free (.inl rfl) fun u => getElem_replicate_fin _ u⟩

/-- A PLAN reset keeps both laws. -/
theorem State.planReset_stepsBound {s : State} (hs : s.stepsBound) : s.planReset.stepsBound := by
  have ended : (if s.seq.plan = .idle then s.restPatterns else s.stopRun).stepsBound := by
    split
    · exact State.stepsBound_congr (s := s) rfl rfl rfl rfl rfl rfl rfl hs
    · exact State.stopRun_stepsBound hs
  exact State.stepsBound_congr (s := if s.seq.plan = .idle then s.restPatterns else s.stopRun) rfl rfl rfl rfl rfl rfl rfl
    ended

/-- An accepted RUN keeps both laws. -/
theorem State.startRun_stepsBound {s : State} (f l : Fin 96) (k : Nat) (n : Fin 96) (hs : s.stepsBound)
    (hidle : s.seq.plan = .idle) : (s.startRun f l k n).stepsBound :=
  State.startStep_stepsBound (State.tablesSound_congr (a := s) rfl rfl hs.1) (.inl hidle)
    (hs.2.free (by simp [PlanState.atUnits, hidle]))

/-- Every command keeps both laws. -/
theorem exec_stepsBound (c : Instr) (s s' : State) (hs : s.stepsBound) (h : exec c s = .next s') : s'.stepsBound := by
  refine exec_keeps (P := State.stepsBound) (bs := [.profiles, .steps, .units, .seq]) (by simp) ?same ?fresh ?command
    c s s' hs h
  case same =>
    intro s s' same
    have hseq : s'.seq = s.seq := same .seq (by simp)
    exact State.stepsBound_congr (same .profiles (by simp)) (same .steps (by simp)) (same .units (by simp))
      (by rw [hseq]) (by rw [hseq]) (by rw [hseq]) (by rw [hseq])
  case fresh =>
    rintro pins s ⟨-, profiles, steps, units, seq, -⟩
    exact ⟨⟨fun n p hn => by simp [profiles n] at hn, fun n r hn => by simp [steps n] at hn⟩,
      State.unitsBound_of_free (.inl (by rw [seq])) units⟩
  case command =>
    intro c s s' htouched hreset hs h
    have stands : ∀ x : State, x.profiles = s.profiles → x.steps = s.steps → x.units = s.units →
        x.seq = s.seq → x.stepsBound := fun x profiles steps units seq =>
      State.stepsBound_congr profiles steps units (by rw [seq]) (by rw [seq]) (by rw [seq]) (by rw [seq]) hs
    have advanced : ∀ t, (s.advance t).stepsBound := fun t => stands _ rfl rfl rfl rfl
    have finished : ∀ x b : State, x.stepsBound → (x.finish b).stepsBound := fun x b hx =>
      State.stepsBound_congr (by simp) (by simp) (by simp) (by simp) (by simp) (by simp) (by simp) hx
    have taking : ∀ {row body t}, (∀ p x, x.stepsBound → (body p x).1.stepsBound) →
        ((s.advance t).takeRequest row body).stepsBound := fun {row body t} hbody =>
      State.takeRequest_keeps (advanced t) (fun _ => stands _ rfl rfl rfl rfl) hbody
        (fun _ _ _ _ => State.stepsBound_congr rfl rfl rfl rfl rfl rfl rfl) fun x => finished x _
    cases c <;> simp [touched, ownBlocks, takingOf] at htouched hreset
    case edgeReceipt t u n kind =>
      exact execEdgeReceipt_keeps (advanced t) (fun b left e hu he => finished _ _
        (State.receive_keeps State.setUnit_stepsBound State.closeUnit_stepsBound (advanced t) hu he)) h
    case stepTimerExpiry t =>
      exact execStepTimerExpiry_keeps (advanced t) (fun us =>
        State.expireAll_keeps State.closeUnit_stepsBound (fun x b _ hx => finished x b hx) us
          (State.stepsBound_congr (s := s) rfl rfl rfl rfl rfl rfl rfl hs)) h
    case settleEnd t =>
      exact execSettleEnd_keeps (advanced t) (fun hplan => finished _ _
        ⟨State.tablesSound_congr (by simp) (by simp) hs.1,
          State.capture_unitsBound (advanced t).1 (advanced t).2 hplan⟩) h
    case pinChange t n level =>
      simp only [exec, execPinChange] at h
      split at h
      · cases h
        exact advanced t
      · split at h <;> cases h
        · exact stands _ rfl rfl rfl rfl
        · exact State.setLine_stepsBound n _ (State.acceptDue_stepsBound n (advanced t))
    all_goals cases h
    case filterExpiry t n => exact State.acceptDue_stepsBound n (advanced t)
    case setProbe => exact taking fun p x hx => setProbe_stepsBound p hx
    case run =>
      exact taking fun p x hx => runPlan_keeps p hx fun f l k n hidle _ => State.startRun_stepsBound f l k n hx hidle
    case ackResults =>
      exact taking fun p x hx => ackResults_keeps p hx
        (fun n => State.stepsBound_congr (s := x) rfl rfl rfl rfl rfl rfl rfl hx) fun n v hheld _ =>
        ⟨State.tablesSound_congr (by simp) (by simp) hx.1,
          State.askToPost_unitsBound v (State.tablesSound_congr (a := x) rfl rfl hx.1)
            (State.unitsBound_congr (s := x) rfl rfl rfl rfl rfl rfl hx.2) (.inr hheld) (hx.2.closed hheld)⟩
    case markStart => exact taking fun p x hx => markStart_stepsBound p hx
    case markStop => exact taking fun p x hx => markStop_keeps State.closeUnit_stepsBound p hx
    case feed => exact taking fun p x hx => feed_keeps State.setUnit_stepsBound State.closeUnit_stepsBound p hx
    case resetPlan => exact taking fun p x hx => resetPlan_keeps p hx (State.planReset_stepsBound hx)
    case pause =>
      exact taking fun p x hx => noParameters_keeps p hx
        (pausePlan_keeps hx (State.stepsBound_congr (s := x) rfl rfl rfl rfl rfl rfl rfl hx))
    case resume =>
      exact taking fun p x hx => noParameters_keeps p hx (resumePlan_keeps hx
        (fun hpaused => State.startStep_stepsBound hx.1 (.inr hpaused)
          (hx.2.free (by simp [PlanState.atUnits, hpaused])))
        (State.stepsBound_congr (s := x) rfl rfl rfl rfl rfl rfl rfl hx))
    case abort =>
      exact taking fun p x hx => noParameters_keeps p hx (abortPlan_keeps hx fun _ =>
        State.stepsBound_congr (s := x.stopRun) rfl rfl rfl rfl rfl rfl rfl (State.stopRun_stepsBound hx))
    case defineStep =>
      exact taking fun p x hx => State.stepsBound_of_steps hx (defineStep_tablesSound p hx.1) (defineStep_touches p x)
        (defineStep_idle p x)
    case eraseSteps =>
      exact taking fun p x hx => State.stepsBound_of_steps hx (eraseSteps_tablesSound p hx.1) (eraseSteps_touches p x)
        (eraseSteps_idle p x)
    case defineProfile =>
      exact taking fun p x hx =>
        State.stepsBound_of_profiles hx (defineProfile_tablesSound p hx.1) (defineProfile_touches p x)
    case eraseProfile =>
      exact taking fun p x hx =>
        State.stepsBound_of_profiles hx (eraseProfile_tablesSound p hx.1) (eraseProfile_touches p x)

/-- Settles O9: a step binds its units at its start, a close sets CLOSED with its report, and every step end frees them. -/
theorem stepKeepsUnitsBound : Obligations.StepKeepsUnitsBound := fun _ _ ht hb h =>
  (step_keeps (P := State.stepsBound) exec_stepsBound
    (fun s _ hs => State.stepsBound_congr (s := s) rfl rfl rfl rfl rfl rfl rfl hs)
    (fun s _ hs => State.stepsBound_congr (s := s) rfl rfl rfl rfl rfl rfl rfl hs) ⟨ht, hb⟩ h).2

end Sys2Proof.Machine
end

section
/-! What a happening leaves of a flag line (spec/07 R126): the plan's commands reach pattern levels and pulse ends alone, and
at a happening's end each line notes a change of its target. -/

namespace Sys2Proof.Machine

set_option Elab.async false

/-! ### Pattern levels and pulse ends -/

/-- From `f` to `g` no more than the pattern level and the pulse end differ. -/
def FlagLine.onlyLevels (f g : FlagLine) : Prop :=
  g = { f with patternLevel := g.patternLevel, pulseEnd := g.pulseEnd }

/-- From `s` to `s'` no more than pattern levels and pulse ends of the flag lines differ. -/
def State.onlyLevels (s s' : State) : Prop := ∀ n : Fin 4, (s.flags[n]).onlyLevels s'.flags[n]

/-- Flag lines that stand keep all. -/
theorem State.onlyLevels_of_flags {s s' : State} (h : s'.flags = s.flags) : s.onlyLevels s' := fun n => by
  rw [h]
  rfl

/-- Two changes of levels and pulse ends are one. -/
theorem State.onlyLevels.trans {a b c : State} (h1 : a.onlyLevels b) (h2 : b.onlyLevels c) : a.onlyLevels c := fun n => by
  have e1 := h1 n
  have e2 := h2 n
  unfold FlagLine.onlyLevels at *
  rw [e2, e1]

/-- A trigger sets pulse ends alone. -/
theorem State.trigger_onlyLevels (src : FlagSource) (s : State) : s.onlyLevels (s.trigger src) := fun n => by
  simp only [State.trigger, getElem_ofFn_fin]
  split <;> rfl

/-- The pulses of a boundary are pulse ends. -/
theorem State.boundaryPulses_onlyLevels (v : Verdict) (s : State) : s.onlyLevels (s.boundaryPulses v) := by
  unfold State.boundaryPulses
  split
  · exact (State.trigger_onlyLevels _ s).trans (State.trigger_onlyLevels _ _)
  · exact State.trigger_onlyLevels _ s

/-- A pattern sets pattern levels alone. -/
theorem State.applyPattern_onlyLevels (p : Option (Vector PatternValue 4)) (s : State) :
    s.onlyLevels (s.applyPattern p) := by
  unfold State.applyPattern
  split
  · exact State.onlyLevels_of_flags rfl
  · intro n
    simp only [getElem_ofFn_fin]
    split <;> rfl

/-- Pattern levels at rest are pattern levels. -/
theorem State.restPatterns_onlyLevels (s : State) : s.onlyLevels s.restPatterns := fun n => by
  simp only [State.restPatterns, getElem_ofFn_fin]
  rfl

/-- The start of a step sets pattern levels alone. -/
theorem State.startStep_onlyLevels (s : State) : s.onlyLevels s.startStep := by
  cases hr : s.steps[s.seq.step] with
  | none => exact State.onlyLevels_of_flags (by simp only [State.startStep, hr])
  | some r =>
    have pattern := State.applyPattern_onlyLevels r.pattern s
    rw [State.startStep_eq s r hr]
    dsimp only
    split
    · exact fun n => pattern n
    · exact State.onlyLevels.trans (b := { s with flags := (s.applyPattern r.pattern).flags }) (fun n => pattern n)
        (State.onlyLevels_of_flags (by simp))

/-- A boundary sets pattern levels and pulse ends alone. -/
theorem State.boundary_onlyLevels (v : Verdict) (s : State) : s.onlyLevels (s.boundary v) := by
  have pulses : s.onlyLevels (s.release.boundaryPulses v) := State.boundaryPulses_onlyLevels v s.release
  unfold State.boundary
  rcases State.carryOut_cases (State.boundaryChoice v (s.release.boundaryPulses v)) (s.release.boundaryPulses v) with
    ⟨k, -, h⟩ | ⟨n, a, i, -, -, h⟩ | ⟨n, a, i, -, -, h⟩ <;> dsimp only <;> rw [h]
  · exact pulses.trans (State.restPatterns_onlyLevels _)
  · exact pulses
  · exact pulses.trans (State.startStep_onlyLevels _)

/-- A post sets pattern levels and pulse ends alone. -/
theorem State.askToPost_onlyLevels (v : Verdict) (s : State) : s.onlyLevels (s.askToPost v) := by
  rcases s.askToPost_cases v with ⟨-, h⟩ | ⟨-, h⟩ <;> rw [h]
  · exact State.onlyLevels.trans (State.onlyLevels_of_flags (by simp)) (State.boundary_onlyLevels v _)
  · exact State.onlyLevels_of_flags rfl

/-- A close sets pattern levels and pulse ends alone. -/
theorem State.closeUnit_onlyLevels {s : State} (x : State) (r : CloseReason) (u : Fin 8) (hx : s.onlyLevels x) :
    s.onlyLevels (x.closeUnit r u) :=
  State.closeUnit_keeps (P := s.onlyLevels) (fun _ _ _ _ h _ _ => h) (fun _ _ _ _ _ h _ _ => h)
    (fun y _ h _ _ => h.trans (State.askToPost_onlyLevels y.seq.verdict { y with seq := _ })) x r u hx

/-- A PLAN reset sets pattern levels alone. -/
theorem State.planReset_onlyLevels (s : State) : s.onlyLevels s.planReset := by
  have : s.onlyLevels (if s.seq.plan = .idle then s.restPatterns else s.stopRun) := by
    split
    · exact State.restPatterns_onlyLevels s
    · exact State.restPatterns_onlyLevels { s with units := _, seq := _ }
  exact this

/-- The rule of a request of the plan or the units sets pattern levels and pulse ends alone. -/
theorem rule_onlyLevels_of_touch {c : Instr} {row : Frame → Bool} {body : List Byte → State → State × Reply}
    (h : takingOf c = some (row, body)) (htouch : .flags ∈ ownBlocks c) (hflags : ownBlocks c ≠ [.flags])
    (p : List Byte) (x : State) : x.onlyLevels (body p x).1 := by
  have same := State.onlyLevels_of_flags (s := x) rfl
  cases c <;> simp [ownBlocks, allBlocks] at htouch hflags <;> cases h
  case resetPlan => exact resetPlan_keeps p same x.planReset_onlyLevels
  case ackResults =>
    exact ackResults_keeps p same (fun _ => same) fun n v _ _ => State.askToPost_onlyLevels v { x with queue := _ }
  case run => exact runPlan_keeps p same fun _ _ _ _ _ _ => State.startStep_onlyLevels { x with seq := _ }
  case resume => exact noParameters_keeps p same (resumePlan_keeps same (fun _ => x.startStep_onlyLevels) same)
  case abort =>
    exact noParameters_keeps p same (abortPlan_keeps same fun _ =>
      State.restPatterns_onlyLevels { x with units := _, seq := _ })
  case markStop => exact markStop_keeps State.closeUnit_onlyLevels p same
  case feed => exact feed_keeps (fun _ _ _ _ h _ _ => h) State.closeUnit_onlyLevels p same

/-- The rule of a request sets pattern levels and pulse ends alone, SET FLAG and DRIVE FLAGS apart. -/
theorem rule_onlyLevels {c : Instr} {row : Frame → Bool} {body : List Byte → State → State × Reply}
    (h : takingOf c = some (row, body)) (hflags : ownBlocks c ≠ [.flags]) (p : List Byte) (x : State) :
    x.onlyLevels (body p x).1 := by
  by_cases htouch : Block.flags ∈ ownBlocks c
  · exact rule_onlyLevels_of_touch h htouch hflags p x
  · exact State.onlyLevels_of_flags ((rule_touches h p x).2.1 .flags htouch)

/-! ### Changes of target noted -/

/-- A source whose value is a level and no pulse (spec/07 R126). -/
def FlagSource.isLevel (x : FlagSource) : Prop := x ≠ .stepEnd ∧ x ≠ .fail

/-- The stretcher's part of a line stands, and a latest target that was the target is so again. -/
def State.Noted (s s' : State) : Prop :=
  ∀ n : Fin 4,
    (s'.flags[n] = { s.flags[n] with
      patternLevel := (s'.flags[n]).patternLevel
      pulseEnd := (s'.flags[n]).pulseEnd
      changes := (s'.flags[n]).changes }) ∧
    ((s.flags[n]).source.isLevel → (s.flags[n]).latest = s.targetOf s.flags[n] →
      (s'.flags[n]).latest = s'.targetOf s'.flags[n])

/-- The target of a line of a level source does not depend on the instant. -/
theorem State.targetOf_of_level {s b : State} {f : FlagLine} (hf : f.source.isLevel) (hplan : b.seq.plan = s.seq.plan)
    (hopen : ∀ u, b.isOpen u = s.isOpen u) (hqueue : b.queue = s.queue) : b.targetOf f = s.targetOf f := by
  have hwindow : b.windowSignal = s.windowSignal := by
    simp only [State.windowSignal]
    congr 1
    exact funext hopen
  obtain ⟨hstep, hfail⟩ := hf
  unfold State.targetOf State.sourceValue
  cases hsource : f.source <;> simp_all

/-- The target of a line depends on its source, its levels, its pulse end and its invert. -/
theorem State.targetOf_line (s : State) {f g : FlagLine} (source : g.source = f.source) (host : g.hostLevel = f.hostLevel)
    (pattern : g.patternLevel = f.patternLevel) (pulse : g.pulseEnd = f.pulseEnd) (invert : g.invert = f.invert) :
    s.targetOf g = s.targetOf f := by
  unfold State.targetOf State.sourceValue
  rw [source, host, pattern, pulse, invert]

/-- After a line has noted a target, its latest target is that one. -/
theorem FlagLine.note_latest (v : Bool) (f : FlagLine) : (f.note v).latest = v := by
  unfold FlagLine.note
  split
  · assumption
  · simp [FlagLine.latest]

/-- A line that notes a target has the targets it had. -/
theorem State.targetOf_note (s : State) (v : Bool) (f : FlagLine) : s.targetOf (f.note v) = s.targetOf f := by
  rw [f.note_frame v]
  exact s.targetOf_line rfl rfl rfl rfl rfl

/-- Nothing noted where the lines stand, and the plan, the open windows and the queue. -/
theorem State.noted_of_same {s s' : State} (flags : s'.flags = s.flags) (plan : s'.seq.plan = s.seq.plan)
    (opened : ∀ u, s'.isOpen u = s.isOpen u) (queue : s'.queue = s.queue) : s.Noted s' := fun n => by
  rw [flags]
  exact ⟨rfl, fun hlevel hlatest => hlatest.trans (State.targetOf_of_level hlevel plan opened queue).symm⟩

/-- What is noted through two changes is noted. -/
theorem State.Noted.trans {a b c : State} (h1 : a.Noted b) (h2 : b.Noted c) : a.Noted c := fun n => by
  obtain ⟨e1, l1⟩ := h1 n
  obtain ⟨e2, l2⟩ := h2 n
  refine ⟨by rw [e2, e1], fun hlevel hlatest => l2 ?_ (l1 hlevel hlatest)⟩
  rw [e1]
  exact hlevel

/-- The end of a happening notes what it has changed: `b` is the state it began in. -/
theorem State.onlyLevels.noted {s b x : State} (hx : s.onlyLevels x) (flags : b.flags = s.flags)
    (plan : b.seq.plan = s.seq.plan) (units : b.units = s.units) (queue : b.queue = s.queue) :
    s.Noted (x.finish b) := fun n => by
  have line := State.finish_lines x b n
  have shape := hx n
  have shaped : (x.finish b).flags[n] = { x.flags[n] with changes := ((x.finish b).flags[n]).changes } := by
    rw [line]
    split
    · rfl
    · exact FlagLine.note_frame _ _
  refine ⟨by rw [shaped, shape], fun hlevel hlatest => ?_⟩
  have hbefore : b.targetOf b.flags[n] = s.targetOf s.flags[n] := by
    rw [flags]
    exact State.targetOf_of_level hlevel plan (fun u => by simp only [State.isOpen, units]) queue
  have hsame : (x.flags[n]).latest = (s.flags[n]).latest := by
    rw [shape]
    rfl
  rw [line]
  split
  · next h => rw [hsame, hlatest, ← hbefore, h]
  · rw [FlagLine.note_latest, State.targetOf_note]

/-- A taking notes what its rule has changed. -/
theorem State.takeRequest_noted {row : Frame → Bool} {body : List Byte → State → State × Reply}
    (hbody : ∀ p (x : State), x.onlyLevels (body p x).1) (t : Nat) (s : State) : s.Noted ((s.advance t).takeRequest row body) := by
  rcases (s.advance t).takeRequest_cases row body with h | ⟨f, rest, -, -, -, ⟨old, -, h⟩ | h⟩ <;> rw [h]
  · exact State.noted_of_same rfl rfl (fun _ => rfl) rfl
  · exact State.onlyLevels.noted (State.onlyLevels_of_flags rfl) rfl rfl rfl rfl
  · exact State.onlyLevels.noted (hbody f.payload ((s.advance t).popped rest)) rfl rfl rfl rfl

/-- A line that takes a level leaves what is open. -/
theorem State.setLine_isOpen (n : Fin 16) (p : ProbeLine) (s : State) (u : Fin 8) : (s.setLine n p).isOpen u = s.isOpen u := by
  unfold State.setLine
  dsimp only
  split
  · rfl
  · simp only [State.isOpen, State.deliverEdge, getElem_ofFn_fin]
    cases s.units[u] with
    | none => rfl
    | some b =>
      simp only [Option.map_some, Option.any_some]
      unfold Bound.deliver
      split <;> rfl

/-- A filter that accepts leaves what is open. -/
theorem State.acceptDue_isOpen (n : Fin 16) (s : State) (u : Fin 8) : (s.acceptDue n).isOpen u = s.isOpen u := by
  unfold State.acceptDue
  split
  · exact State.setLine_isOpen n _ s u
  · rfl

/-- The closes of an expiry each note what they have changed. -/
theorem State.expireAll_noted (us : List (Fin 8)) (s : State) : s.Noted (us.foldl (fun x u => x.expiryAt u) s) := by
  induction us generalizing s with
  | nil => exact State.noted_of_same rfl rfl (fun _ => rfl) rfl
  | cons u us ih =>
    refine State.Noted.trans ?_ (ih _)
    refine State.onlyLevels.noted ?_ rfl rfl rfl rfl
    have same := State.onlyLevels_of_flags (s := s) rfl
    unfold State.expireUnit
    split
    · exact same
    · split
      · exact State.closeUnit_onlyLevels _ _ _ same
      · exact State.closeUnit_onlyLevels _ _ _ same
      · exact same

/-- Every happening but the resets and those of the flag lines notes what it has changed of the targets. -/
theorem exec_noted_of_happening {c : Instr} {s s' : State} (h : exec c s = .next s') (htake : takingOf c = none)
    (hflags : ownBlocks c ≠ [.flags]) (hreset : ownBlocks c ≠ allBlocks) : s.Noted s' := by
  have advanced : ∀ t, s.Noted (s.advance t) := fun t => State.noted_of_same rfl rfl (fun _ => rfl) rfl
  have ended : ∀ t (x : State), x.flags = s.flags → s.Noted (x.finish (s.advance t)) := fun t x hx =>
    State.onlyLevels.noted (State.onlyLevels_of_flags hx) rfl rfl rfl rfl
  cases c <;> cases htake <;> simp [ownBlocks, allBlocks] at hflags hreset
  case edgeReceipt t u n kind =>
    exact execEdgeReceipt_keeps (P := s.Noted) (advanced t) (fun b left e hu he => State.onlyLevels.noted
      (State.receive_keeps (P := s.onlyLevels) (fun _ _ _ _ h _ _ => h) State.closeUnit_onlyLevels
        (State.onlyLevels_of_flags rfl) hu he) rfl rfl rfl rfl) h
  case stepTimerExpiry t =>
    exact execStepTimerExpiry_keeps (P := s.Noted) (advanced t)
      (fun us => State.Noted.trans (b := { s.advance t with seq := { s.seq with stepTimerAt := none } })
        (State.noted_of_same rfl rfl (fun _ => rfl) rfl) (State.expireAll_noted us _)) h
  case settleEnd t => exact execSettleEnd_keeps (P := s.Noted) (advanced t) (fun _ => ended t _ (by simp)) h
  case pinChange t n level =>
    simp only [exec, execPinChange] at h
    split at h
    · cases h
      exact advanced t
    · split at h <;> cases h
      · exact State.noted_of_same rfl rfl (fun _ => rfl) rfl
      · exact State.noted_of_same (by simp) (by simp)
          (fun u => (State.setLine_isOpen _ _ _ u).trans (State.acceptDue_isOpen _ _ u)) (by simp)
  case filterExpiry t n =>
    cases h
    exact State.noted_of_same (by simp) (by simp) (fun u => State.acceptDue_isOpen n _ u) (by simp)
  case character t byte =>
    simp only [exec, execCharacter] at h
    split at h <;> cases h
    · exact advanced t
    · exact ended t _ (by simp)
  case framing t =>
    simp only [exec, execFraming] at h
    split at h
    · split at h <;> cases h
      · exact ended t _ (by simp)
      · exact advanced t
    all_goals
      cases h
      exact advanced t
  case gap t =>
    simp only [exec, execGap] at h
    split at h <;> cases h
    · exact ended t _ (by simp)
    · exact advanced t
  all_goals
    have same : ∀ b, b ∉ [Block.rx] → sameBlock b s s' := fun b hb => exec_sameBlock h
      (by simpa [touched, ownBlocks, takingOf] using hb)
    have hseq : s'.seq = s.seq := same .seq (by simp)
    have hunits : s'.units = s.units := same .units (by simp)
    exact State.noted_of_same (same .flags (by simp)) (by rw [hseq]) (fun u => by simp only [State.isOpen, hunits])
      (same .queue (by simp))

/-- Every command but the resets and those of the flag lines leaves the stretcher's part of every line as it stands, and
notes what it has changed of the targets. -/
theorem exec_noted {c : Instr} {s s' : State} (h : exec c s = .next s') (hflags : ownBlocks c ≠ [.flags])
    (hreset : ownBlocks c ≠ allBlocks) : s.Noted s' := by
  cases htake : takingOf c with
  | none => exact exec_noted_of_happening h htake hflags hreset
  | some rb =>
    rw [exec_of_takingOf htake s] at h
    cases h
    exact State.takeRequest_noted (fun p x => rule_onlyLevels htake hflags p x) _ _

end Sys2Proof.Machine
end

section
/-! The laws of the flag lines through every command (spec/07 R125 to R132): a line without a hold shows its target, the latest
target of a level source is its value, pattern levels rest in IDLE, and an output keeps its width. -/

namespace Sys2Proof.Machine

set_option Elab.async false

/-! ### One line -/

/-- A line with no hold end shows the target its stretcher took (R125, R129). -/
def FlagLine.settled (f : FlagLine) : Prop := f.holdEnd = none → f.output = f.target

/-- The latest target of a line of a level source is its source value with invert (R125, R126). -/
def State.follows (s : State) (f : FlagLine) : Prop := f.source.isLevel → f.latest = s.targetOf f

/-- `flagsFollow`, line by line. -/
theorem State.flagsFollow_iff (s : State) : s.flagsFollow ↔ ∀ n : Fin 4, s.follows s.flags[n] :=
  ⟨fun h n hlevel => h n hlevel.1 hlevel.2, fun h n hstep hfail => h n ⟨hstep, hfail⟩⟩

/-- A target taken leaves a line settled. -/
theorem FlagLine.take_settled (now : Nat) (v : Bool) (f : FlagLine) : (f.take now v).settled :=
  FlagLine.stretch_settled now { f with target := v }

/-- A target taken leaves every setting, and is the target. -/
theorem FlagLine.take_frame (now : Nat) (v : Bool) (f : FlagLine) :
    (f.take now v).source = f.source ∧ (f.take now v).invert = f.invert ∧ (f.take now v).width = f.width ∧
      (f.take now v).hostLevel = f.hostLevel ∧ (f.take now v).restLevel = f.restLevel ∧
      (f.take now v).patternLevel = f.patternLevel ∧ (f.take now v).pulseEnd = f.pulseEnd ∧
      (f.take now v).target = v ∧ (f.take now v).changes = f.changes :=
  FlagLine.stretch_frame now { f with target := v }

/-- The stretcher leaves the latest target. -/
theorem FlagLine.stretch_latest (now : Nat) (f : FlagLine) : (f.stretch now).latest = f.latest := by
  obtain ⟨-, -, -, -, -, -, -, htarget, hchanges⟩ := FlagLine.stretch_frame now f
  simp only [FlagLine.latest, htarget, hchanges]

/-- The stretcher leaves the target that the source gives. -/
theorem State.targetOf_stretch (s : State) (now : Nat) (f : FlagLine) : s.targetOf (f.stretch now) = s.targetOf f := by
  obtain ⟨hsource, hinvert, -, hhost, -, hpattern, hpulse, -, -⟩ := FlagLine.stretch_frame now f
  exact s.targetOf_line hsource hhost hpattern hpulse hinvert

/-- A line that takes its target at once follows its source. -/
theorem State.settleFlag_follows (s : State) (f : FlagLine) : s.follows (s.settleFlag f) := fun _ => by
  show (FlagLine.stretch s.now { f with changes := [], target := s.targetOf f }).latest = s.targetOf (s.settleFlag f)
  rw [FlagLine.stretch_latest]
  exact (s.targetOf_stretch s.now { f with changes := [], target := s.targetOf f }).symm

/-- A line that takes its target at once keeps its settings. -/
theorem State.settleFlag_levels (s : State) (f : FlagLine) :
    (s.settleFlag f).restLevel = f.restLevel ∧ (s.settleFlag f).patternLevel = f.patternLevel := by
  obtain ⟨-, -, -, -, hrest, hpattern, -, -, -⟩ := FlagLine.take_frame s.now (s.targetOf f) { f with changes := [] }
  exact ⟨hrest, hpattern⟩

/-- Changes taken in turn leave every setting. -/
theorem FlagLine.takeAll_levels (now : Nat) (f : FlagLine) :
    (f.takeAll now).restLevel = f.restLevel ∧ (f.takeAll now).patternLevel = f.patternLevel := by
  have key : ∀ (vs : List Bool) (g : FlagLine),
      (vs.foldl (fun x v => FlagLine.take now v x) g).restLevel = g.restLevel ∧
        (vs.foldl (fun x v => FlagLine.take now v x) g).patternLevel = g.patternLevel := by
    intro vs
    induction vs with
    | nil => exact fun g => ⟨rfl, rfl⟩
    | cons v vs ih =>
      intro g
      obtain ⟨-, -, -, -, hrest, hpattern, -, -, -⟩ := FlagLine.take_frame now v g
      exact ⟨(ih _).1.trans hrest, (ih _).2.trans hpattern⟩
  exact key f.changes { f with changes := [] }

/-- A TARGET_CHANGE leaves a line settled that was. -/
theorem FlagLine.takeChange_settled (now : Nat) {f : FlagLine} (hf : f.settled) : (f.takeChange now).settled := by
  unfold FlagLine.takeChange
  split
  · exact hf
  · exact FlagLine.take_settled now _ _

/-- A TARGET_CHANGE leaves settings and latest target. -/
theorem FlagLine.takeChange_frame (now : Nat) (s : State) (f : FlagLine) :
    (f.takeChange now).source = f.source ∧ (f.takeChange now).latest = f.latest ∧
      s.targetOf (f.takeChange now) = s.targetOf f ∧ (f.takeChange now).restLevel = f.restLevel ∧
      (f.takeChange now).patternLevel = f.patternLevel := by
  unfold FlagLine.takeChange
  split
  · exact ⟨rfl, rfl, rfl, rfl, rfl⟩
  · next v rest hchanges =>
    obtain ⟨hsource, hinvert, -, hhost, hrest, hpattern, hpulse, htarget, hleft⟩ :=
      FlagLine.take_frame now v { f with changes := rest }
    refine ⟨hsource, ?_, s.targetOf_line hsource hhost hpattern hpulse hinvert, hrest, hpattern⟩
    simp only [FlagLine.latest, htarget, hleft, hchanges]
    cases rest with
    | nil => rfl
    | cons w ws => rw [List.getLast?_cons_cons, List.getLast?_eq_some_getLast (List.cons_ne_nil w ws)]; rfl

/-- A HOLD_END leaves a line settled that was. -/
theorem FlagLine.endHold_settled (now : Nat) {f : FlagLine} (hf : f.settled) : (f.endHold now).settled := by
  unfold FlagLine.endHold
  split
  · exact hf
  · split
    · exact FlagLine.stretch_settled now _
    · exact hf

/-- A HOLD_END leaves settings and latest target. -/
theorem FlagLine.endHold_frame (now : Nat) (s : State) (f : FlagLine) :
    (f.endHold now).source = f.source ∧ (f.endHold now).latest = f.latest ∧
      s.targetOf (f.endHold now) = s.targetOf f ∧ (f.endHold now).restLevel = f.restLevel ∧
      (f.endHold now).patternLevel = f.patternLevel := by
  unfold FlagLine.endHold
  split
  · exact ⟨rfl, rfl, rfl, rfl, rfl⟩
  · split
    · obtain ⟨hsource, -, -, -, hrest, hpattern, -⟩ := FlagLine.stretch_frame now { f with holdEnd := none }
      exact ⟨hsource, FlagLine.stretch_latest now _,
        (s.targetOf_stretch now _).trans (s.targetOf_line rfl rfl rfl rfl rfl), hrest, hpattern⟩
    · exact ⟨rfl, rfl, rfl, rfl, rfl⟩

/-- A PULSE_END does nothing, or the line takes its target at once with its pulse ended. -/
theorem State.endPulse_cases (s : State) (f : FlagLine) :
    s.endPulse f = f ∨ s.endPulse f = s.settleFlag { f.takeAll s.now with pulseEnd := none } := by
  unfold State.endPulse
  split
  · exact .inl rfl
  · split
    · exact .inr rfl
    · exact .inl rfl

/-- What SET FLAG does to a named line: it takes its target at once, or turns with its invert and goes through the
stretcher with the source it has (R131). -/
theorem State.setFlagLine_cases (src : FlagSource) (invert : Bool) (w : Nat) (rest : Bool) (s : State) (f : FlagLine) :
    (∃ g, s.setFlagLine src invert w rest f = s.settleFlag g ∧ g.restLevel = rest ∧
      (s.seq.plan = .idle → g.patternLevel = rest)) ∨
    f.source = src ∧ ¬(src = .pattern ∧ s.seq.plan = .idle) ∧
      s.setFlagLine src invert w rest f = FlagLine.stretch s.now ({ f with
        source := src, width := w, restLevel := rest,
        patternLevel := if s.seq.plan = PlanState.idle then rest else f.patternLevel,
        pulseEnd := f.pulseEnd }.reinvert invert) := by
  unfold State.setFlagLine
  dsimp only
  split
  · next hsource =>
    split
    · exact .inl ⟨_, rfl, rfl, fun hidle => if_pos hidle⟩
    · next hno => exact .inr ⟨hsource, hno, rfl⟩
  · exact .inl ⟨_, rfl, rfl, fun hidle => if_pos hidle⟩

/-- SET FLAG leaves a named line settled. -/
theorem State.setFlagLine_settled (src : FlagSource) (invert : Bool) (w : Nat) (rest : Bool) (s : State) (f : FlagLine) :
    (s.setFlagLine src invert w rest f).settled := by
  rcases s.setFlagLine_cases src invert w rest f with ⟨g, h, -⟩ | ⟨-, -, h⟩ <;> rw [h]
  · exact FlagLine.take_settled _ _ _
  · exact FlagLine.stretch_settled _ _

/-- After a SET FLAG a named line follows its source, if it did before. -/
theorem State.setFlagLine_follows (src : FlagSource) (invert : Bool) (w : Nat) (rest : Bool) {s : State} {f : FlagLine}
    (hf : s.follows f) : s.follows (s.setFlagLine src invert w rest f) := by
  rcases s.setFlagLine_cases src invert w rest f with ⟨g, h, -⟩ | ⟨rfl, hno, h⟩ <;> rw [h]
  · exact s.settleFlag_follows g
  · intro hlevel
    rw [FlagLine.stretch_latest, s.targetOf_stretch, FlagLine.reinvert_latest]
    have hlatest := hf (by simpa [(FlagLine.stretch_frame _ _).1] using hlevel)
    have hvalue : s.sourceValue (FlagLine.reinvert invert { f with
        width := w, restLevel := rest, patternLevel := if s.seq.plan = PlanState.idle then rest else f.patternLevel }) =
          s.sourceValue f := by
      unfold State.sourceValue
      cases hsource : f.source <;> simp [FlagLine.reinvert]
      intro hidle
      exact absurd ⟨hsource, hidle⟩ hno
    show (f.latest ^^ (f.invert ^^ invert)) = (s.sourceValue _ ^^ invert)
    rw [hvalue, hlatest, State.targetOf]
    cases s.sourceValue f <;> cases f.invert <;> cases invert <;> rfl

/-- After a SET FLAG in IDLE the pattern level of a named line is its rest level. -/
theorem State.setFlagLine_rest (src : FlagSource) (invert : Bool) (w : Nat) (rest : Bool) {s : State} (f : FlagLine)
    (hidle : s.seq.plan = .idle) :
    (s.setFlagLine src invert w rest f).patternLevel = (s.setFlagLine src invert w rest f).restLevel := by
  rcases s.setFlagLine_cases src invert w rest f with ⟨g, h, hrest, hpattern⟩ | ⟨-, -, h⟩ <;> rw [h]
  · rw [(s.settleFlag_levels g).2, (s.settleFlag_levels g).1, hrest, hpattern hidle]
  · obtain ⟨-, -, -, -, hrest, hpattern, -⟩ := FlagLine.stretch_frame s.now ({ f with
        source := src, width := w, restLevel := rest,
        patternLevel := if s.seq.plan = PlanState.idle then rest else f.patternLevel,
        pulseEnd := f.pulseEnd }.reinvert invert)
    rw [hrest, hpattern]
    simp [hidle]

/-! ### What SET FLAG and DRIVE FLAGS do to every line -/

/-- The state with every flag line as a function of the lines gives it. -/
def State.withLines (g : Fin 4 → FlagLine) (s : State) : State := { s with flags := Vector.ofFn g }

/-- SET FLAG refuses, or configures the named lines. -/
theorem setFlag_cases (payload : List Byte) (s : State) :
    (setFlag payload s).1 = s ∨ ∃ src invert w rest, ∃ mask : Fin 4 → Bool,
      (setFlag payload s).1 =
        s.withLines fun n => if mask n then s.setFlagLine src invert w rest s.flags[n] else s.flags[n] := by
  unfold setFlag
  split
  · split
    · exact .inl rfl
    · exact .inr ⟨_, _, _, _, _, rfl⟩
  · exact .inl rfl

/-- DRIVE FLAGS refuses, or drives the named lines. -/
theorem driveFlags_cases (payload : List Byte) (s : State) :
    (driveFlags payload s).1 = s ∨ ∃ level mask : Fin 4 → Bool,
      (driveFlags payload s).1 =
        s.withLines fun n => if mask n then s.driveLine (level n) s.flags[n] else s.flags[n] := by
  unfold driveFlags
  split
  · exact .inr ⟨_, _, rfl⟩
  · exact .inl rfl

/-- A rule that gives every line what a law of lines allows keeps the law. -/
theorem setFlag_lines {L : FlagLine → Prop} {s : State} (payload : List Byte) (hs : ∀ n : Fin 4, L s.flags[n])
    (hline : ∀ (n : Fin 4) src invert w rest, L (s.setFlagLine src invert w rest s.flags[n])) (n : Fin 4) :
    L (setFlag payload s).1.flags[n] := by
  rcases setFlag_cases payload s with h | ⟨src, invert, w, rest, mask, h⟩ <;> rw [h]
  · exact hs n
  · simp only [State.withLines, getElem_ofFn_fin]
    split
    · exact hline n src invert w rest
    · exact hs n

/-- A rule that gives every line what a law of lines allows keeps the law. -/
theorem driveFlags_lines {L : FlagLine → Prop} {s : State} (payload : List Byte) (hs : ∀ n : Fin 4, L s.flags[n])
    (hline : ∀ (n : Fin 4) v, L (s.driveLine v s.flags[n])) (n : Fin 4) : L (driveFlags payload s).1.flags[n] := by
  rcases driveFlags_cases payload s with h | ⟨level, mask, h⟩ <;> rw [h]
  · exact hs n
  · simp only [State.withLines, getElem_ofFn_fin]
    split
    · exact hline n _
    · exact hs n

/-- A command of one flag line gives that line what a law of lines allows, and keeps the law. -/
theorem set_line {L : FlagLine → Prop} {v : Vector FlagLine 4} {n : Fin 4} {g : FlagLine} (hv : ∀ m : Fin 4, L v[m])
    (hg : L g) (m : Fin 4) : L (v.set n g)[m] := by
  rw [getElem_set_fin]
  split
  · exact hg
  · exact hv m

/-! ### Lines without a hold -/

/-- The end of a happening leaves every line settled that was. -/
theorem State.finish_settled {s : State} (b : State) (hs : s.flagsSettled) : (s.finish b).flagsSettled := fun n => by
  have line := State.finish_lines s b n
  rw [line]
  split
  · exact hs n
  · rw [FlagLine.note_frame]
    exact hs n

/-- A line driven is settled, if it was. -/
theorem State.driveLine_settled (v : Bool) (s : State) {f : FlagLine} (hf : f.settled) : (s.driveLine v f).settled := by
  unfold State.driveLine
  split
  · exact FlagLine.take_settled _ _ _
  · exact hf

/-- The commands of the flag lines keep the lines settled. -/
theorem exec_flagsSettled_of_line {c : Instr} {s s' : State} (hflags : ownBlocks c = [.flags]) (hs : s.flagsSettled)
    (h : exec c s = .next s') : s'.flagsSettled := by
  have lines : ∀ n : Fin 4, (s.flags[n]).settled := hs
  have taking : ∀ {row body t}, (∀ p (x : State), x.flagsSettled → (body p x).1.flagsSettled) →
      ((s.advance t).takeRequest row body).flagsSettled := fun {row body t} hbody =>
    State.takeRequest_keeps hs (fun _ => hs) hbody (fun _ _ _ _ hx => hx) fun x => State.finish_settled _
  cases c <;> simp [ownBlocks, allBlocks] at hflags <;> cases h
  case targetChange t n => exact set_line (L := FlagLine.settled) lines (FlagLine.takeChange_settled _ (lines n))
  case holdEnd t n => exact set_line (L := FlagLine.settled) lines (FlagLine.endHold_settled _ (lines n))
  case pulseEnd t n =>
    refine set_line (L := FlagLine.settled) lines ?_
    rcases (s.advance t).endPulse_cases (s.advance t).flags[n] with h | h <;> rw [h]
    · exact lines n
    · exact FlagLine.take_settled _ _ _
  case setFlag t =>
    exact taking fun p x hx => setFlag_lines (L := FlagLine.settled) p hx fun n src invert w rest =>
      x.setFlagLine_settled src invert w rest _
  case driveFlags t =>
    exact taking fun p x hx => driveFlags_lines (L := FlagLine.settled) p hx fun n v => x.driveLine_settled v (hx n)

/-- Every command keeps the lines settled. -/
theorem exec_flagsSettled (c : Instr) (s s' : State) (hs : s.flagsSettled) (h : exec c s = .next s') :
    s'.flagsSettled := by
  refine exec_keeps (P := State.flagsSettled) (bs := [.flags]) (by simp) ?same ?fresh ?command c s s' hs h
  case same =>
    intro s s' same hs
    unfold State.flagsSettled
    rw [show s'.flags = s.flags from same .flags (by simp)]
    exact hs
  case fresh =>
    rintro pins s ⟨-, -, -, -, -, -, flags⟩ n
    simp [flags n]
  case command =>
    intro c s s' htouched hreset hs h
    by_cases hflags : ownBlocks c = [.flags]
    · exact exec_flagsSettled_of_line hflags hs h
    · have noted := exec_noted h hflags hreset
      intro n
      rw [(noted n).1]
      exact hs n

/-! ### Lines of level sources -/

/-- The end of a happening leaves every line following that did. -/
theorem State.finish_follows {s : State} (b : State) (hs : s.flagsFollow) : (s.finish b).flagsFollow := by
  rw [State.flagsFollow_iff] at hs ⊢
  intro n hlevel
  have line := State.finish_lines s b n
  have htarget : (s.finish b).targetOf s.flags[n] = s.targetOf s.flags[n] :=
    State.targetOf_congr (by simp) (by simp) (by simp) (by simp) _
  by_cases hsame : b.targetOf b.flags[n] = (s.finish b).targetOf s.flags[n]
  · rw [if_pos hsame] at line
    rw [line] at hlevel ⊢
    rw [htarget]
    exact hs n hlevel
  · rw [if_neg hsame] at line
    rw [line, FlagLine.note_latest, State.targetOf_note]

/-- A line driven follows its source, if it did. -/
theorem State.driveLine_follows (v : Bool) {s : State} {f : FlagLine} (hf : s.follows f) : s.follows (s.driveLine v f) := by
  unfold State.driveLine
  split
  · exact s.settleFlag_follows _
  · next hhost =>
    intro hlevel
    have : s.targetOf { f with hostLevel := v } = s.targetOf f := by
      unfold State.targetOf State.sourceValue
      cases hsource : f.source <;> simp_all
    rw [this]
    exact hf hlevel

/-- Lines, plan, units and queue that stand keep the lines following. -/
theorem State.flagsFollow_congr {s s' : State} (flags : s'.flags = s.flags) (plan : s'.seq.plan = s.seq.plan)
    (units : s'.units = s.units) (queue : s'.queue = s.queue) (hs : s.flagsFollow) : s'.flagsFollow := by
  rw [State.flagsFollow_iff] at hs ⊢
  intro n
  rw [flags]
  exact fun hlevel => (hs n hlevel).trans
    (State.targetOf_of_level hlevel plan (fun u => by simp only [State.isOpen, units]) queue).symm

/-- Lines that follow in one state follow in another of the same plan, units and queue. -/
theorem State.follows_congr {s s' : State} (plan : s'.seq.plan = s.seq.plan) (units : s'.units = s.units)
    (queue : s'.queue = s.queue) {f : FlagLine} (hf : s.follows f) : s'.follows f := fun hlevel =>
  (hf hlevel).trans (State.targetOf_of_level hlevel plan (fun u => by simp only [State.isOpen, units]) queue).symm

/-- A command of one flag line keeps the lines following. -/
theorem State.set_follows {s : State} (n : Fin 4) {g : FlagLine} (hs : s.flagsFollow) (hg : s.follows g) :
    ({ s with flags := s.flags.set n g } : State).flagsFollow := by
  rw [State.flagsFollow_iff] at hs ⊢
  exact fun m => State.follows_congr rfl rfl rfl (set_line (L := s.follows) hs hg m)

/-- A line of the same source and target that keeps its latest target follows. -/
theorem State.follows_of_frame {s : State} {f g : FlagLine} (hf : s.follows f) (source : g.source = f.source)
    (latest : g.latest = f.latest) (target : s.targetOf g = s.targetOf f) : s.follows g := fun hlevel => by
  rw [latest, target]
  exact hf (source ▸ hlevel)

/-- The commands of the flag lines keep the lines following. -/
theorem exec_flagsFollow_of_line {c : Instr} {s s' : State} (hflags : ownBlocks c = [.flags]) (hs : s.flagsFollow)
    (h : exec c s = .next s') : s'.flagsFollow := by
  have advanced : ∀ t, (s.advance t).flagsFollow := fun t => State.flagsFollow_congr (s := s) rfl rfl rfl rfl hs
  have line := fun t => (State.flagsFollow_iff _).mp (advanced t)
  have taking : ∀ {row body t}, (∀ p (x : State), x.flagsFollow → (body p x).1.flagsFollow) →
      ((s.advance t).takeRequest row body).flagsFollow := fun {row body t} hbody =>
    State.takeRequest_keeps (advanced t) (fun _ => State.flagsFollow_congr (s := s) rfl rfl rfl rfl hs) hbody
      (fun _ _ _ x => State.flagsFollow_congr (s := x) rfl rfl rfl rfl) fun x => State.finish_follows _
  cases c <;> simp [ownBlocks, allBlocks] at hflags <;> cases h
  case targetChange t n =>
    obtain ⟨source, latest, target, -⟩ := FlagLine.takeChange_frame (s.advance t).now (s.advance t) s.flags[n]
    exact State.set_follows n (advanced t) (State.follows_of_frame (line t n) source latest target)
  case holdEnd t n =>
    obtain ⟨source, latest, target, -⟩ := FlagLine.endHold_frame (s.advance t).now (s.advance t) s.flags[n]
    exact State.set_follows n (advanced t) (State.follows_of_frame (line t n) source latest target)
  case pulseEnd t n =>
    refine State.set_follows n (advanced t) ?_
    rcases (s.advance t).endPulse_cases (s.advance t).flags[n] with h | h <;> rw [h]
    · exact line t n
    · exact State.settleFlag_follows _ _
  case setFlag t =>
    refine taking fun p x hx => ?_
    have same : reaches [.flags] x (setFlag p x).1 := setFlag_touches p x
    have hseq : (setFlag p x).1.seq = x.seq := same.2.1 .seq (by simp)
    rw [State.flagsFollow_iff] at hx ⊢
    exact fun n => State.follows_congr (by rw [hseq]) (same.2.1 .units (by simp)) (same.2.1 .queue (by simp))
      (setFlag_lines (L := x.follows) p hx
        (fun n src invert w rest => State.setFlagLine_follows src invert w rest (hx n)) n)
  case driveFlags t =>
    refine taking fun p x hx => ?_
    have same : reaches [.flags] x (driveFlags p x).1 := driveFlags_touches p x
    have hseq : (driveFlags p x).1.seq = x.seq := same.2.1 .seq (by simp)
    rw [State.flagsFollow_iff] at hx ⊢
    exact fun n => State.follows_congr (by rw [hseq]) (same.2.1 .units (by simp)) (same.2.1 .queue (by simp))
      (driveFlags_lines (L := x.follows) p hx (fun n v => State.driveLine_follows v (hx n)) n)

/-- Every command keeps the lines following. -/
theorem exec_flagsFollow (c : Instr) (s s' : State) (hs : s.flagsFollow) (h : exec c s = .next s') : s'.flagsFollow := by
  refine exec_keeps (P := State.flagsFollow) (bs := [.flags, .seq, .units, .queue]) (by simp) ?same ?fresh ?command
    c s s' hs h
  case same =>
    intro s s' same
    have hseq : s'.seq = s.seq := same .seq (by simp)
    exact State.flagsFollow_congr (same .flags (by simp)) (by rw [hseq]) (same .units (by simp)) (same .queue (by simp))
  case fresh =>
    rintro pins s ⟨-, -, -, -, -, -, flags⟩ n - -
    simp [flags n, FlagLine.latest, State.targetOf, State.sourceValue]
  case command =>
    intro c s s' htouched hreset hs h
    by_cases hflags : ownBlocks c = [.flags]
    · exact exec_flagsFollow_of_line hflags hs h
    · have noted := exec_noted h hflags hreset
      rw [State.flagsFollow_iff] at hs ⊢
      intro n hlevel
      have source : (s'.flags[n]).source = (s.flags[n]).source := by rw [(noted n).1]
      rw [source] at hlevel
      exact (noted n).2 hlevel (hs n hlevel)

end Sys2Proof.Machine
end

section
/-! Pattern levels at rest in IDLE, and the widths of outputs (spec/07 R127, R130). -/

namespace Sys2Proof.Machine

set_option Elab.async false

/-! ### Pattern levels at rest -/

/-- The pattern level of a line is its rest level. -/
def FlagLine.rests (f : FlagLine) : Prop := f.patternLevel = f.restLevel

/-- The law asks for the plan and the levels of the lines alone. -/
theorem State.patternsRest_of {s s' : State} (hs : s.patternsRest) (plan : s'.seq.plan = .idle → s.seq.plan = .idle)
    (lines : ∀ n : Fin 4, (s.flags[n]).rests → (s'.flags[n]).rests) : s'.patternsRest := fun hidle n =>
  lines n (hs (plan hidle) n)

/-- Lines and plan that stand keep the law. -/
theorem State.patternsRest_congr {s s' : State} (flags : s'.flags = s.flags) (plan : s'.seq.plan = s.seq.plan)
    (hs : s.patternsRest) : s'.patternsRest :=
  State.patternsRest_of hs (fun h => plan ▸ h) fun n h => by rwa [flags]

/-- Outside IDLE the law asks for nothing. -/
theorem State.patternsRest_of_running {s : State} (h : s.seq.plan ≠ .idle) : s.patternsRest := fun hidle => absurd hidle h

/-- Pattern levels set at rest rest. -/
theorem State.restPatterns_rests (s : State) : s.restPatterns.patternsRest := fun _ n => by
  simp only [State.restPatterns, getElem_ofFn_fin]

/-- The end of a happening leaves the levels. -/
theorem State.finish_patternsRest {s : State} (b : State) (hs : s.patternsRest) : (s.finish b).patternsRest := by
  refine State.patternsRest_of hs (fun h => by simpa using h) fun n h => ?_
  have line := State.finish_lines s b n
  rw [line]
  split
  · exact h
  · rw [FlagLine.note_frame]
    exact h

/-- The start of a step leaves IDLE, or nothing changes. -/
theorem State.startStep_patternsRest {s : State} (hs : s.patternsRest) : s.startStep.patternsRest := by
  cases hr : s.steps[s.seq.step] with
  | none => simpa only [State.startStep, hr] using hs
  | some r =>
    refine State.patternsRest_of_running ?_
    rw [State.startStep_eq s r hr]
    dsimp only
    split
    · simp
    · rw [State.capture_eq _ r rfl]
      simp

/-- The boundary of a step rests the levels where the run ends. -/
theorem State.boundary_patternsRest (v : Verdict) {s : State} (hs : s.patternsRest) : (s.boundary v).patternsRest := by
  have pulses : (s.release.boundaryPulses v).patternsRest := by
    refine State.patternsRest_of hs (fun h => by simpa [State.release] using h) fun n h => ?_
    unfold State.boundaryPulses
    split <;> simp only [State.trigger, getElem_ofFn_fin] <;> repeat' split
    all_goals exact h
  unfold State.boundary
  rcases State.carryOut_cases (State.boundaryChoice v (s.release.boundaryPulses v)) (s.release.boundaryPulses v) with
    ⟨k, -, h⟩ | ⟨n, a, i, -, -, h⟩ | ⟨n, a, i, -, -, h⟩ <;> dsimp only <;> rw [h]
  · exact State.restPatterns_rests _
  · exact State.patternsRest_of_running (by simp)
  · exact State.startStep_patternsRest (State.patternsRest_congr (s := s.release.boundaryPulses v) rfl rfl pulses)

/-- A post keeps the law. -/
theorem State.askToPost_patternsRest (v : Verdict) {s : State} (hs : s.patternsRest) : (s.askToPost v).patternsRest := by
  rcases s.askToPost_cases v with ⟨-, h⟩ | ⟨-, h⟩ <;> rw [h]
  · exact State.boundary_patternsRest v (State.patternsRest_congr (s := s) (by simp) rfl hs)
  · exact State.patternsRest_of_running (by simp)

/-- A close keeps the law. -/
theorem State.closeUnit_patternsRest (s : State) (r : CloseReason) (u : Fin 8) (hs : s.patternsRest) :
    (s.closeUnit r u).patternsRest :=
  State.closeUnit_keeps (fun _ _ _ _ h _ _ => h) (fun _ _ _ _ _ h _ _ => h)
    (fun s _ h _ _ => State.askToPost_patternsRest s.seq.verdict (State.patternsRest_congr (s := s) rfl rfl h)) s r u hs

/-- A PLAN reset rests the levels. -/
theorem State.planReset_patternsRest (s : State) : s.planReset.patternsRest := by
  have ended : (if s.seq.plan = .idle then s.restPatterns else s.stopRun).patternsRest := by
    split
    · exact s.restPatterns_rests
    · exact State.restPatterns_rests _
  exact ended

/-- A line driven keeps its levels. -/
theorem State.driveLine_rests (v : Bool) (s : State) {f : FlagLine} (hf : f.rests) : (s.driveLine v f).rests := by
  unfold State.driveLine
  split
  · obtain ⟨hrest, hpattern⟩ := s.settleFlag_levels { f with hostLevel := v }
    exact hpattern.trans (hf.trans hrest.symm)
  · exact hf

/-- A pulse that ends keeps the levels. -/
theorem State.endPulse_rests (s : State) {f : FlagLine} (hf : f.rests) : (s.endPulse f).rests := by
  rcases s.endPulse_cases f with h | h <;> rw [h]
  · exact hf
  · obtain ⟨hrest, hpattern⟩ := s.settleFlag_levels { f.takeAll s.now with pulseEnd := none }
    obtain ⟨trest, tpattern⟩ := FlagLine.takeAll_levels s.now f
    exact hpattern.trans (tpattern.trans (hf.trans (hrest.trans trest).symm))

/-- SET FLAG keeps the law: in IDLE a named line takes its new rest level. -/
theorem setFlag_patternsRest (payload : List Byte) {s : State} (hs : s.patternsRest) :
    (setFlag payload s).1.patternsRest := by
  intro hidle
  have hseq : (setFlag payload s).1.seq = s.seq := (setFlag_touches payload s).2.1 .seq (by simp)
  rw [hseq] at hidle
  exact setFlag_lines (L := FlagLine.rests) payload (hs hidle) fun n src invert w rest =>
    State.setFlagLine_rest src invert w rest _ hidle

/-- DRIVE FLAGS keeps the law. -/
theorem driveFlags_patternsRest (payload : List Byte) {s : State} (hs : s.patternsRest) :
    (driveFlags payload s).1.patternsRest := by
  intro hidle
  have hseq : (driveFlags payload s).1.seq = s.seq := (driveFlags_touches payload s).2.1 .seq (by simp)
  rw [hseq] at hidle
  exact driveFlags_lines (L := FlagLine.rests) payload (hs hidle) fun n v => s.driveLine_rests v (hs hidle n)

/-- The rule of a request of the plan, the units or the flag lines keeps the law. -/
theorem rule_patternsRest_of_touch {c : Instr} {row : Frame → Bool} {body : List Byte → State → State × Reply}
    (h : takingOf c = some (row, body)) (htouch : .seq ∈ ownBlocks c ∨ .flags ∈ ownBlocks c) (p : List Byte) {x : State}
    (hx : x.patternsRest) : (body p x).1.patternsRest := by
  have same : ∀ q : Sequencer, q.plan = x.seq.plan → ({ x with seq := q } : State).patternsRest := fun q hq =>
    State.patternsRest_congr (s := x) rfl hq hx
  cases c <;> simp [ownBlocks, allBlocks] at htouch <;> cases h
  case resetPlan => exact resetPlan_keeps p hx x.planReset_patternsRest
  case ackResults =>
    exact ackResults_keeps p hx (fun _ => hx) fun n v _ _ =>
      State.askToPost_patternsRest v (s := { x with queue := _ }) hx
  case run => exact runPlan_keeps p hx fun _ _ _ _ _ _ => State.startStep_patternsRest (same _ rfl)
  case pause => exact noParameters_keeps p hx (pausePlan_keeps hx (same _ rfl))
  case resume =>
    exact noParameters_keeps p hx (resumePlan_keeps hx (fun _ => State.startStep_patternsRest hx) (same _ rfl))
  case abort => exact noParameters_keeps p hx (abortPlan_keeps hx fun _ => State.restPatterns_rests { x with seq := _ })
  case markStop => exact markStop_keeps State.closeUnit_patternsRest p hx
  case feed => exact feed_keeps (fun _ _ _ _ h _ _ => h) State.closeUnit_patternsRest p hx
  case setFlag => exact setFlag_patternsRest p hx
  case driveFlags => exact driveFlags_patternsRest p hx

/-- The rule of a request keeps the law. -/
theorem rule_patternsRest {c : Instr} {row : Frame → Bool} {body : List Byte → State → State × Reply}
    (h : takingOf c = some (row, body)) (p : List Byte) {x : State} (hx : x.patternsRest) :
    (body p x).1.patternsRest := by
  by_cases htouch : .seq ∈ ownBlocks c ∨ .flags ∈ ownBlocks c
  · exact rule_patternsRest_of_touch h htouch p hx
  · have stands := (rule_touches h p x).2.1
    obtain ⟨hseq, hflags⟩ := not_or.mp htouch
    have seq : (body p x).1.seq = x.seq := stands .seq hseq
    exact State.patternsRest_congr (stands .flags hflags) (by rw [seq]) hx

/-- A happening that is neither a reset nor a taking keeps the law. -/
theorem exec_patternsRest_of_happening {c : Instr} {s s' : State} (htake : takingOf c = none)
    (hreset : ownBlocks c ≠ allBlocks) (htouch : .seq ∈ ownBlocks c ∨ .flags ∈ ownBlocks c) (hs : s.patternsRest)
    (h : exec c s = .next s') : s'.patternsRest := by
  have ended : ∀ t (x : State), x.flags = s.flags → x.seq.plan = s.seq.plan → (x.finish (s.advance t)).patternsRest :=
    fun t x flags plan => State.finish_patternsRest _ (State.patternsRest_congr flags plan hs)
  have line : ∀ t (n : Fin 4) (g : FlagLine), ((s.flags[n]).rests → g.rests) →
      ({ s.advance t with flags := s.flags.set n g } : State).patternsRest := fun t n g hg hidle =>
    set_line (L := FlagLine.rests) (hs hidle) (hg (hs hidle n))
  cases c <;> cases htake <;> simp [ownBlocks, allBlocks] at hreset htouch
  case edgeReceipt t u n kind =>
    exact execEdgeReceipt_keeps (P := State.patternsRest) hs (fun b left e hu he => State.finish_patternsRest _
      (State.receive_keeps (P := State.patternsRest) (fun _ _ _ _ h _ _ => h) State.closeUnit_patternsRest hs hu he)) h
  case stepTimerExpiry t =>
    exact execStepTimerExpiry_keeps (P := State.patternsRest) hs
      (fun us => State.expireAll_keeps (P := State.patternsRest) State.closeUnit_patternsRest
        (fun x b _ hx => State.finish_patternsRest b hx) us hs) h
  case settleEnd t =>
    refine execSettleEnd_keeps (P := State.patternsRest) hs (fun hsettling => State.finish_patternsRest _ ?_) h
    unfold State.capture
    split
    · exact hs
    · exact State.patternsRest_of_running (by simp)
  case targetChange t n =>
    cases h
    refine line t n _ fun hf => ?_
    obtain ⟨-, -, -, hrest, hpattern⟩ := FlagLine.takeChange_frame (s.advance t).now s s.flags[n]
    exact hpattern.trans (hf.trans hrest.symm)
  case holdEnd t n =>
    cases h
    refine line t n _ fun hf => ?_
    obtain ⟨-, -, -, hrest, hpattern⟩ := FlagLine.endHold_frame (s.advance t).now s s.flags[n]
    exact hpattern.trans (hf.trans hrest.symm)
  case pulseEnd t n =>
    cases h
    exact line t n _ fun hf => State.endPulse_rests _ hf
  case character t byte =>
    simp only [exec, execCharacter] at h
    split at h <;> cases h
    · exact hs
    · exact ended t _ (by simp) (by simp)
  case framing t =>
    simp only [exec, execFraming] at h
    split at h
    · split at h <;> cases h
      · exact ended t _ (by simp) (by simp)
      · exact hs
    all_goals
      cases h
      exact hs
  case gap t =>
    simp only [exec, execGap] at h
    split at h <;> cases h
    · exact ended t _ (by simp) (by simp)
    · exact hs

/-- Every command keeps the pattern levels at rest in IDLE. -/
theorem exec_patternsRest (c : Instr) (s s' : State) (hs : s.patternsRest) (h : exec c s = .next s') :
    s'.patternsRest := by
  refine exec_keeps (P := State.patternsRest) (bs := [.seq, .flags]) (by simp) ?same ?fresh ?command c s s' hs h
  case same =>
    intro s s' same
    have hseq : s'.seq = s.seq := same .seq (by simp)
    exact State.patternsRest_congr (same .flags (by simp)) (by rw [hseq])
  case fresh =>
    rintro pins s ⟨-, -, -, -, -, -, flags⟩ - n
    simp [flags n]
  case command =>
    intro c s s' htouched hreset hs h
    cases htake : takingOf c with
    | none => exact exec_patternsRest_of_happening htake hreset (by simpa [touched, htake] using htouched) hs h
    | some rb =>
      rw [exec_of_takingOf htake s] at h
      cases h
      exact State.takeRequest_keeps hs (fun _ => hs) (fun p x hx => rule_patternsRest htake p hx)
        (fun _ _ _ _ hx => hx) fun x => State.finish_patternsRest _

/-- Settles O12: the stretcher settles the lines it handles, every happening notes the targets it changes, and every end of
a run rests the pattern levels. -/
theorem stepKeepsFlagLinesSound : Obligations.StepKeepsFlagLinesSound :=
  ⟨fun _ _ => step_keeps exec_flagsSettled (fun _ _ hs => hs) fun _ _ hs => hs,
    fun _ _ => step_keeps exec_flagsFollow (fun s _ hs => State.flagsFollow_congr (s := s) rfl rfl rfl rfl hs)
      fun s _ hs => State.flagsFollow_congr (s := s) rfl rfl rfl rfl hs,
    fun _ _ => step_keeps exec_patternsRest (fun _ _ hs => hs) fun _ _ hs => hs⟩

/-! ### The widths of outputs -/

/-- From `f` to `g`: a running hold keeps output and hold end, and a change of output starts a hold of the width in force,
that of the line or, on a PATTERN line in IDLE with changes that wait, the width before (R130, R131). -/
def State.widthKept (s : State) (now : Nat) (f g : FlagLine) : Prop :=
  (∀ h, f.holdEnd = some h → now < h → g.output = f.output ∧ g.holdEnd = some h) ∧
    (g.output ≠ f.output → ∃ w, (w = g.width ∨
        (f.changes ≠ [] ∧ f.source = .pattern ∧ s.seq.plan = .idle ∧ w = f.width)) ∧
      g.holdEnd = if w = 0 then none else some (now + micros w))

/-- A line that keeps its width in the stretcher's sense keeps it. -/
theorem FlagLine.KeepsWidth.widthKept {now : Nat} {f g : FlagLine} (h : f.KeepsWidth now g) (s : State) :
    s.widthKept now f g :=
  ⟨h.held, fun hne => ⟨g.width, .inl rfl, h.changed hne⟩⟩

/-- A line whose output and hold end stand keeps its width. -/
theorem State.widthKept_of_same (s : State) (now : Nat) {f g : FlagLine} (output : g.output = f.output)
    (hold : g.holdEnd = f.holdEnd) : s.widthKept now f g :=
  (f.keepsWidth_of_same now g output hold).widthKept s

/-- A change that waits, noted at a happening's end, leaves the width. -/
theorem State.widthKept.finish {s x b : State} {now : Nat} {f : FlagLine} {n : Fin 4}
    (h : s.widthKept now f x.flags[n]) : s.widthKept now f (x.finish b).flags[n] := by
  have line := State.finish_lines x b n
  rw [line]
  split
  · exact h
  · rw [FlagLine.note_frame]
    exact h

/-- A TARGET_CHANGE keeps the width. -/
theorem FlagLine.keepsWidth_takeChange (now : Nat) (f : FlagLine) : f.KeepsWidth now (f.takeChange now) := by
  unfold FlagLine.takeChange
  split
  · exact f.keepsWidth_of_same now f rfl rfl
  · next v rest _ =>
    obtain ⟨hkeeps, hwidth⟩ := FlagLine.keepsWidth_take now v { f with changes := rest }
    exact (f.keepsWidth_of_same now { f with changes := rest } rfl rfl).trans hkeeps hwidth

/-- A line driven keeps its width. -/
theorem State.keepsWidth_driveLine (v : Bool) (s : State) (f : FlagLine) : f.KeepsWidth s.now (s.driveLine v f) := by
  unfold State.driveLine
  split
  · exact s.keepsWidth_settleFlag f { f with hostLevel := v } rfl rfl
  · exact f.keepsWidth_of_same s.now _ rfl rfl

/-- A taking keeps every width that its rule keeps. -/
theorem State.takeRequest_widthKept {row : Frame → Bool} {body : List Byte → State → State × Reply} {s : State} {t : Nat}
    (n : Fin 4) (hbody : ∀ p rest, s.widthKept (s.advance t).now s.flags[n]
      (body p ((s.advance t).popped rest)).1.flags[n]) :
    s.widthKept (s.advance t).now s.flags[n] ((s.advance t).takeRequest row body).flags[n] := by
  rcases (s.advance t).takeRequest_cases row body with h | ⟨f, rest, -, -, -, ⟨old, -, h⟩ | h⟩ <;> rw [h]
  · exact s.widthKept_of_same _ rfl rfl
  · exact State.widthKept.finish (s.widthKept_of_same _ rfl rfl)
  · exact State.widthKept.finish (hbody f.payload rest)

/-- The commands of the flag lines keep the widths. -/
theorem exec_widthKept_of_line {c : Instr} {s s' : State} (n : Fin 4) (hflags : ownBlocks c = [.flags])
    (h : exec c s = .next s') : s.widthKept s'.now s.flags[n] s'.flags[n] := by
  rw [exec_now h]
  have line : ∀ t (m : Fin 4) (g : FlagLine), s.widthKept (max s.now t) s.flags[m] g →
      s.widthKept (max s.now t) s.flags[n] (s.flags.set m g)[n] := fun t m g hg => by
    rw [getElem_set_fin]
    split
    · next heq => exact heq ▸ hg
    · exact s.widthKept_of_same _ rfl rfl
  cases c <;> simp [ownBlocks, allBlocks] at hflags <;> cases h
  case targetChange t m => exact line t m _ ((s.flags[m]).keepsWidth_takeChange _ |>.widthKept s)
  case holdEnd t m => exact line t m _ ((s.flags[m]).keepsWidth_endHold _ |>.widthKept s)
  case pulseEnd t m => exact line t m _ ((s.advance t).keepsWidth_endPulse s.flags[m] |>.widthKept s)
  case setFlag t =>
    refine State.takeRequest_widthKept (t := t) n fun p rest => ?_
    rcases setFlag_cases p ((s.advance t).popped rest) with h | ⟨src, invert, w, low, mask, h⟩ <;> rw [h]
    · exact s.widthKept_of_same _ rfl rfl
    · simp only [State.withLines, getElem_ofFn_fin]
      split
      · exact State.setFlagLine_widths ((s.advance t).popped rest) src invert w low s.flags[n] _ rfl
      · exact s.widthKept_of_same _ rfl rfl
  case driveFlags t =>
    refine State.takeRequest_widthKept (t := t) n fun p rest => ?_
    rcases driveFlags_cases p ((s.advance t).popped rest) with h | ⟨level, mask, h⟩ <;> rw [h]
    · exact s.widthKept_of_same _ rfl rfl
    · simp only [State.withLines, getElem_ofFn_fin]
      split
      · exact (State.keepsWidth_driveLine (level n) ((s.advance t).popped rest) s.flags[n]).widthKept s
      · exact s.widthKept_of_same _ rfl rfl

/-- A command that may reset the part and does not reset the flag lines leaves them. -/
theorem exec_flags_of_no_reset {c : Instr} {s s' : State} (hc : ownBlocks c = allBlocks) (hno : ¬resetsFlags c s)
    (h : exec c s = .next s') : s'.flags = s.flags := by
  cases c <;> simp [ownBlocks, allBlocks, resetsFlags] at hc hno
  case brk t =>
    simp only [exec, execBrk] at h
    split at h <;> cases h
    · simp [State.takeBreak, hno]
    · rfl
  case frameSent t =>
    simp only [exec, execFrameSent] at h
    split at h
    · cases h
      rfl
    · next f hf =>
      split at h <;> cases h
      · have hattached : f.attached ≠ .fullReset := by
          rw [show s.tx.inFlight = some f from hf] at hno
          simpa using hno
        cases hwhat : f.attached with
        | nothing => simp [State.applyAttached]
        | rateSwitch r => simp [State.applyAttached]
        | fullReset => exact absurd hwhat hattached
      · rfl

/-- Settles O41: by the commands of the flag lines; every other command leaves outputs and holds. -/
theorem outputsKeepMinimumWidth : Obligations.OutputsKeepMinimumWidth := by
  intro c s s' n h hno
  show s.widthKept s'.now s.flags[n] s'.flags[n]
  by_cases hflags : ownBlocks c = [.flags]
  · exact exec_widthKept_of_line n hflags h
  · by_cases hreset : ownBlocks c = allBlocks
    · have hsame := exec_flags_of_no_reset hreset hno h
      exact s.widthKept_of_same _ (by rw [hsame]) (by rw [hsame])
    · have line := (exec_noted h hflags hreset n).1
      exact s.widthKept_of_same _ (by rw [line]) (by rw [line])

end Sys2Proof.Machine
end

section
/-! The queues of the link through every command (spec/08 R147, R148; spec/09 R157, R159, R166): a taking answers with one
reply where there is a place for it, and a FULL reset that is pending is owed by its reply. -/

namespace Sys2Proof.Machine

set_option Elab.async false

/-! ### What leaves the queues of the link -/

/-- The requests, the cache, the reply queue and the frame in flight stand. -/
def State.queuesStand (s s' : State) : Prop :=
  s'.interp.requests = s.interp.requests ∧ s'.interp.cache = s.interp.cache ∧ s'.tx.queue = s.tx.queue ∧
    s'.tx.inFlight = s.tx.inFlight

/-- The queues of the link and reset pending stand. -/
def State.linkStands (s s' : State) : Prop := s.queuesStand s' ∧ s'.interp.resetPending = s.interp.resetPending

/-- An interpreter and a transmitter that stand leave all. -/
theorem State.linkStands_of_same {s s' : State} (interp : s'.interp = s.interp) (tx : s'.tx = s.tx) :
    s.linkStands s' := by
  refine ⟨⟨?_, ?_, ?_, ?_⟩, ?_⟩ <;> simp only [interp, tx]

/-- What two changes leave, both leave. -/
theorem State.linkStands.trans {a b c : State} (h1 : a.linkStands b) (h2 : b.linkStands c) : a.linkStands c := by
  obtain ⟨⟨r1, c1, q1, f1⟩, p1⟩ := h1
  obtain ⟨⟨r2, c2, q2, f2⟩, p2⟩ := h2
  exact ⟨⟨r2.trans r1, c2.trans c1, q2.trans q1, f2.trans f1⟩, p2.trans p1⟩

/-- A RESULTS notice raised leaves the queues. -/
theorem State.raiseResults_linkStands (s : State) : s.linkStands s.raiseResults := by
  unfold State.raiseResults
  split <;> exact ⟨⟨rfl, rfl, rfl, rfl⟩, rfl⟩

/-- A LINK notice raised leaves the queues. -/
theorem State.raiseLink_linkStands (r : LinkReason) (s : State) : s.linkStands (s.raiseLink r) := by
  unfold State.raiseLink
  split <;> exact ⟨⟨rfl, rfl, rfl, rfl⟩, rfl⟩

/-- A PLAN notice raised leaves the queues. -/
theorem State.noticePlan_linkStands (b s : State) : s.linkStands (s.noticePlan b) := by
  unfold State.noticePlan
  split
  · exact State.linkStands_of_same rfl rfl
  · unfold State.raisePlan
    split <;> exact ⟨⟨rfl, rfl, rfl, rfl⟩, rfl⟩

/-- A post leaves the queues of the link. -/
theorem State.askToPost_linkStands (v : Verdict) (s : State) : s.linkStands (s.askToPost v) := by
  rcases s.askToPost_cases v with ⟨-, h⟩ | ⟨-, h⟩ <;> rw [h]
  · refine State.linkStands.trans (b := s.postRecords (s.seq.recordsOf v s.queue.next)) ?_
      (State.linkStands_of_same (by simp) (by simp))
    unfold State.postRecords
    dsimp only
    split
    · exact State.raiseResults_linkStands { s with queue := _ }
    · exact State.linkStands_of_same rfl rfl
  · exact State.linkStands_of_same rfl rfl

/-- A close leaves the queues of the link. -/
theorem State.closeUnit_linkStands {s : State} (x : State) (r : CloseReason) (u : Fin 8) (hx : s.linkStands x) :
    s.linkStands (x.closeUnit r u) :=
  State.closeUnit_keeps (P := s.linkStands) (fun _ _ _ _ h _ _ => h) (fun _ _ _ _ _ h _ _ => h)
    (fun y _ h _ _ => h.trans (State.askToPost_linkStands y.seq.verdict { y with seq := _ })) x r u hx

/-- The rule of a request that may reach the link's blocks leaves its queues, and brings reset pending about only with the
reply that resets the part (spec/09 R166). -/
theorem rule_queuesStand_of_touch {c : Instr} {row : Frame → Bool} {body : List Byte → State → State × Reply}
    (h : takingOf c = some (row, body)) (htouch : .interp ∈ ownBlocks c ∨ .tx ∈ ownBlocks c) (p : List Byte) (x : State) :
    x.queuesStand (body p x).1 ∧
      ((body p x).1.interp.resetPending = x.interp.resetPending ∨ (body p x).2.attached = .fullReset) := by
  have of_stands : x.linkStands (body p x).1 → x.queuesStand (body p x).1 ∧
      ((body p x).1.interp.resetPending = x.interp.resetPending ∨ (body p x).2.attached = .fullReset) :=
    fun h => ⟨h.1, .inl h.2⟩
  have same := State.linkStands_of_same (s := x) rfl rfl
  cases c <;> simp [ownBlocks, allBlocks] at htouch <;> cases h
  case setNotices =>
    refine of_stands ?_
    unfold setNotices
    split
    · exact ⟨⟨rfl, rfl, rfl, rfl⟩, rfl⟩
    · exact same
  case resetFull =>
    unfold resetFull
    split
    · split
      · exact ⟨⟨rfl, rfl, rfl, rfl⟩, .inr rfl⟩
      · exact ⟨same.1, .inl rfl⟩
    · exact ⟨same.1, .inl rfl⟩
  case ackResults =>
    exact of_stands (ackResults_keeps p same (fun _ => same) fun n v _ _ =>
      State.askToPost_linkStands v { x with queue := _ })
  case markStop => exact of_stands (markStop_keeps State.closeUnit_linkStands p same)
  case feed => exact of_stands (feed_keeps (fun _ _ _ _ h _ _ => h) State.closeUnit_linkStands p same)

/-- The rule of a request leaves the queues of the link, and brings reset pending about only with the reply that resets the
part (spec/09 R166). -/
theorem rule_queuesStand {c : Instr} {row : Frame → Bool} {body : List Byte → State → State × Reply}
    (h : takingOf c = some (row, body)) (p : List Byte) (x : State) :
    x.queuesStand (body p x).1 ∧
      ((body p x).1.interp.resetPending = x.interp.resetPending ∨ (body p x).2.attached = .fullReset) := by
  by_cases htouch : .interp ∈ ownBlocks c ∨ .tx ∈ ownBlocks c
  · exact rule_queuesStand_of_touch h htouch p x
  · obtain ⟨hinterp, htx⟩ := not_or.mp htouch
    have stands := (rule_touches h p x).2.1
    have same : x.linkStands (body p x).1 := State.linkStands_of_same (stands .interp hinterp) (stands .tx htx)
    exact ⟨same.1, .inl same.2⟩

/-! ### The arbiter and the laws -/

/-- At most eight cache entries of different tags, and no more requests, replies and refusals than there are places. -/
def State.queuesBounded (s : State) : Prop := s.interp.cacheSound ∧ s.linkBounded

/-- The replies of a reply queue that hold a place. -/
def repliesIn (q : List QueuedReply) : Nat := (q.filter fun x => decide (x.role = .reply)).length

/-- The refusals of a reply queue. -/
def refusalsIn (q : List QueuedReply) : Nat := (q.filter fun x => decide (x.role = .refusal)).length

/-- `placesHeld` counts the replies that wait and the one in flight. -/
theorem State.placesHeld_eq (s : State) :
    s.placesHeld = repliesIn s.tx.queue + ofBit (s.tx.inFlight.any fun f => decide (f.role = .reply)) := rfl

/-- The bounds speak of the queues of the link alone. -/
theorem State.queuesBounded_of_stand {s s' : State} (h : s.queuesStand s') (hs : s.queuesBounded) : s'.queuesBounded := by
  obtain ⟨requests, cache, queue, inFlight⟩ := h
  unfold State.queuesBounded Interpreter.cacheSound State.linkBounded State.placesHeld State.refusalsWaiting
  rw [requests, cache, queue, inFlight]
  exact hs

/-- A FULL reset that is owed stays owed where queues and reset pending stand. -/
theorem State.resetOwed_of_stand {s s' : State} (h : s.linkStands s') (hs : s.resetOwed) : s'.resetOwed := by
  obtain ⟨⟨-, -, queue, inFlight⟩, pending⟩ := h
  unfold State.resetOwed
  rw [queue, inFlight, pending]
  exact hs

/-- The arbiter chooses nothing, the oldest entry of the reply queue, or with none a notice (spec/09 R172). -/
theorem Transmitter.choose_cases (x : Transmitter) :
    x.choose = none ∨ (∃ q more, x.queue = q :: more ∧ x.choose = some (q, { x with queue := more })) ∨
      (x.queue = [] ∧ ∃ q y, x.choose = some (q, y) ∧ q.role = .notice ∧ y.queue = []) := by
  cases hqueue : x.queue with
  | cons q more => exact .inr (.inl ⟨q, more, rfl, by simp [Transmitter.choose, hqueue]⟩)
  | nil =>
    cases hstart : x.start with
    | some n => exact .inr (.inr ⟨rfl, by simp [Transmitter.choose, hqueue, hstart]⟩)
    | none =>
      cases hlink : x.link with
      | some n => exact .inr (.inr ⟨rfl, by simp [Transmitter.choose, hqueue, hstart, hlink]⟩)
      | none =>
        cases hplan : x.plan with
        | some n => exact .inr (.inr ⟨rfl, by simp [Transmitter.choose, hqueue, hstart, hlink, hplan]⟩)
        | none =>
          cases hresults : x.results with
          | some n => exact .inr (.inr ⟨rfl, by simp [Transmitter.choose, hqueue, hstart, hlink, hplan, hresults]⟩)
          | none => exact .inl (by simp [Transmitter.choose, hqueue, hstart, hlink, hplan, hresults])

/-- The arbiter leaves the transmitter, or with nothing in flight sends the oldest reply or, with none, a notice. -/
theorem State.arbitrate_cases (s : State) :
    s.arbitrate.tx = s.tx ∨ s.tx.inFlight = none ∧
      ((∃ q more, s.tx.queue = q :: more ∧ s.arbitrate.tx.queue = more ∧
          ∃ t r, s.arbitrate.tx.inFlight =
            some { frame := q.frame, role := q.role, attached := q.attached, beganAt := t, rate := r }) ∨
        (s.tx.queue = [] ∧ s.arbitrate.tx.queue = [] ∧
          ∃ f, s.arbitrate.tx.inFlight = some f ∧ f.role = .notice)) := by
  unfold State.arbitrate
  split
  · exact .inl rfl
  · next hfree =>
    simp only [Bool.or_eq_true, Option.isSome_iff_ne_none, not_or, ne_eq, not_not] at hfree
    rcases s.tx.choose_cases with h | ⟨q, more, hqueue, h⟩ | ⟨hqueue, q, y, h, hrole, hleft⟩ <;> rw [h]
    · exact .inl rfl
    · exact .inr ⟨hfree.2, .inl ⟨q, more, hqueue, rfl, _, _, rfl⟩⟩
    · exact .inr ⟨hfree.2, .inr ⟨hqueue, hleft, _, rfl, hrole⟩⟩

/-- The arbiter keeps the bounds: the oldest reply takes its place with it. -/
theorem State.arbitrate_queuesBounded {s : State} (hs : s.queuesBounded) : s.arbitrate.queuesBounded := by
  have hinterp : s.arbitrate.interp = s.interp := by simp
  rcases s.arbitrate_cases with htx | ⟨hfree, ⟨q, more, hqueue, hleft, t, r, hflight⟩ | ⟨hqueue, hleft, f, hflight, hrole⟩⟩
  · exact State.queuesBounded_of_stand ⟨by rw [hinterp], by rw [hinterp], by rw [htx], by rw [htx]⟩ hs
  · obtain ⟨hcache, hrequests, hplaces, hrefusals⟩ := hs
    refine ⟨by rwa [hinterp], by rwa [hinterp], ?_, ?_⟩
    · rw [State.placesHeld_eq, hqueue, hfree] at hplaces
      rw [State.placesHeld_eq, hleft, hflight]
      simp only [repliesIn, List.filter_cons, Option.any_none, Option.any_some] at hplaces ⊢
      by_cases hrole : q.role = .reply <;> simp [hrole, ofBit] at hplaces ⊢ <;> omega
    · unfold State.refusalsWaiting at hrefusals ⊢
      rw [hqueue] at hrefusals
      rw [hleft]
      exact ((List.sublist_cons_self q more).filter _).length_le.trans hrefusals
  · obtain ⟨hcache, hrequests, -, -⟩ := hs
    refine ⟨by rwa [hinterp], by rwa [hinterp], ?_, ?_⟩
    · rw [State.placesHeld_eq, hleft, hflight]
      simp [repliesIn, hrole, ofBit]
    · simp [State.refusalsWaiting, hleft]

/-- The arbiter keeps a FULL reset owed: its reply waits or is in flight. -/
theorem State.arbitrate_resetOwed {s : State} (hs : s.resetOwed) : s.arbitrate.resetOwed := by
  intro hpending
  have owed := hs (by simpa using hpending)
  rcases s.arbitrate_cases with htx | ⟨hfree, ⟨q, more, hqueue, hleft, t, r, hflight⟩ | ⟨hqueue, -, f, -, -⟩⟩
  · rw [htx]
    exact owed
  · rw [hleft, hflight]
    rw [hqueue, hfree] at owed
    rcases owed with ⟨x, hx, hattached⟩ | hnone
    · rcases List.mem_cons.mp hx with rfl | hx
      · exact .inr (by simp [hattached])
      · exact .inl ⟨x, hx, hattached⟩
    · simp at hnone
  · rw [hqueue, hfree] at owed
    rcases owed with ⟨x, hx, -⟩ | hnone
    · cases hx
    · simp at hnone

/-- The end of a happening keeps the bounds. -/
theorem State.finish_queuesBounded {s : State} (b : State) (hs : s.queuesBounded) : (s.finish b).queuesBounded :=
  State.arbitrate_queuesBounded (s := (s.noticePlan b).noteTargets b)
    (State.queuesBounded_of_stand (State.noticePlan_linkStands b s).1 hs)

/-- The end of a happening keeps a FULL reset owed. -/
theorem State.finish_resetOwed {s : State} (b : State) (hs : s.resetOwed) : (s.finish b).resetOwed :=
  State.arbitrate_resetOwed (s := (s.noticePlan b).noteTargets b)
    (State.resetOwed_of_stand (State.noticePlan_linkStands b s) hs)

/-! ### A taking -/

/-- A reply given where a place is free keeps the bounds. -/
theorem State.giveReply_queuesBounded {s : State} (tag : Byte) (g : OutFrame) (a : Attached) (hs : s.queuesBounded)
    (hplace : s.placesHeld < Config.replyPlaces) : (s.giveReply tag g a).queuesBounded := by
  obtain ⟨⟨hlength, htags⟩, hrequests, -, hrefusals⟩ := hs
  refine ⟨writeCache_sound tag g s.interp.cache hlength htags, hrequests, ?_, ?_⟩
  · rw [State.placesHeld_eq] at hplace ⊢
    simp only [State.giveReply, repliesIn, List.filter_append, List.length_append] at hplace ⊢
    simp at hplace ⊢
    omega
  · simpa [State.refusalsWaiting, State.giveReply] using hrefusals

/-- Of a request taken the places of the replies are free, and no FULL reset is pending (spec/09 R156). -/
theorem State.mayTake_iff (s : State) :
    s.mayTake = true ↔ s.nResetLow = false ∧ s.interp.resetPending = false ∧ s.placesHeld < Config.replyPlaces := by
  simp [State.mayTake, and_assoc]

/-- A frame that has left the request queue leaves the bounds. -/
theorem State.popped_queuesBounded {s : State} {f : Frame} {rest : List Frame} (hs : s.queuesBounded)
    (hq : s.interp.requests = f :: rest) : (s.popped rest).queuesBounded := by
  obtain ⟨hcache, hrequests, hplaces, hrefusals⟩ := hs
  refine ⟨hcache, ?_, hplaces, hrefusals⟩
  rw [hq] at hrequests
  exact (Nat.le_succ _).trans hrequests

/-- A taking keeps the bounds. -/
theorem State.takeRequest_queuesBounded {row : Frame → Bool} {body : List Byte → State → State × Reply} {s : State}
    (hs : s.queuesBounded) (hbody : ∀ p (x : State), x.queuesStand (body p x).1) : (s.takeRequest row body).queuesBounded := by
  rcases s.takeRequest_cases row body with h | ⟨f, rest, hq, hmay, -, ⟨old, -, h⟩ | h⟩ <;> rw [h]
  · exact hs
  · obtain ⟨-, -, hplace⟩ := s.mayTake_iff.mp hmay
    exact State.finish_queuesBounded _ (State.giveReply_queuesBounded _ _ _ (State.popped_queuesBounded hs hq) hplace)
  · obtain ⟨-, -, hplace⟩ := s.mayTake_iff.mp hmay
    have stands := hbody f.payload (s.popped rest)
    refine State.finish_queuesBounded _ (State.giveReply_queuesBounded _ _ _
      (State.queuesBounded_of_stand stands (State.popped_queuesBounded hs hq)) ?_)
    obtain ⟨-, -, queue, inFlight⟩ := stands
    unfold State.placesHeld
    rw [queue, inFlight]
    exact hplace

/-- A taking keeps a FULL reset owed: none was pending, and the rule that sets it attaches the reset to its reply. -/
theorem State.takeRequest_resetOwed {row : Frame → Bool} {body : List Byte → State → State × Reply} {s : State}
    (hs : s.resetOwed) (hbody : ∀ p (x : State), (body p x).1.interp.resetPending = x.interp.resetPending ∨
      (body p x).2.attached = .fullReset) : (s.takeRequest row body).resetOwed := by
  rcases s.takeRequest_cases row body with h | ⟨f, rest, hq, hmay, -, ⟨old, -, h⟩ | h⟩ <;> rw [h]
  · exact hs
  · obtain ⟨-, hnone, -⟩ := s.mayTake_iff.mp hmay
    refine State.finish_resetOwed _ fun hpending => ?_
    have : s.interp.resetPending = true := hpending
    rw [hnone] at this
    cases this
  · obtain ⟨-, hnone, -⟩ := s.mayTake_iff.mp hmay
    refine State.finish_resetOwed _ fun hpending => ?_
    rcases hbody f.payload (s.popped rest) with same | attached
    · have : s.interp.resetPending = true := same.symm.trans hpending
      rw [hnone] at this
      cases this
    · exact .inl ⟨_, List.mem_append_right _ (List.mem_singleton_self _), attached⟩

/-! ### Reception -/

/-- A request handed on keeps the bounds (spec/08 R147, R148). -/
theorem State.handRequest_queuesBounded {s : State} (f : Frame) (hs : s.queuesBounded) :
    (s.handRequest f).queuesBounded := by
  obtain ⟨hcache, hrequests, hplaces, hrefusals⟩ := hs
  unfold State.handRequest
  split
  · next hroom =>
    refine ⟨hcache, ?_, hplaces, hrefusals⟩
    simp only [List.length_append, List.length_singleton]
    omega
  · split
    · next hroom =>
      refine ⟨hcache, hrequests, ?_, ?_⟩
      · simpa [State.placesHeld, refusalFor] using hplaces
      · simp only [State.refusalsWaiting, List.filter_append, List.length_append] at hroom ⊢
        simp [refusalFor]
        omega
    · exact ⟨hcache, hrequests, hplaces, hrefusals⟩

/-- A request handed on keeps a FULL reset owed. -/
theorem State.handRequest_resetOwed {s : State} (f : Frame) (hs : s.resetOwed) : (s.handRequest f).resetOwed := by
  unfold State.handRequest
  split
  · exact hs
  · split
    · exact fun hpending => (hs hpending).imp_left fun ⟨q, hq, h⟩ => ⟨q, List.mem_append_left _ hq, h⟩
    · exact hs

/-- A link fault leaves the queues. -/
theorem State.linkFault_linkStands (r : LinkReason) (s : State) : s.linkStands (s.linkFault r) :=
  State.raiseLink_linkStands r { s with rx := _ }

/-- A received byte leaves the queues, or it ends a request that is handed on. -/
theorem State.assemble_cases (b : Byte) (s : State) :
    s.linkStands (s.assemble b) ∨ ∃ f, s.assemble b = s.rxHunt.handRequest f := by
  have stands : ∀ x, s.linkStands (s.rxTo x) := fun x => State.linkStands_of_same rfl rfl
  unfold State.assemble
  split
  · split
    · exact .inl (stands _)
    · exact .inl (State.linkStands_of_same rfl rfl)
  · unfold State.takeHeader
    dsimp only
    split
    · split
      · exact .inl (s.linkFault_linkStands _)
      · exact .inl (stands _)
    · split <;> exact .inl (stands _)
    · exact .inl (stands _)
  · unfold State.takeBody
    dsimp only
    split <;> exact .inl (stands _)
  · exact .inl (stands _)
  · unfold State.endFrame
    split
    · exact .inl (s.linkFault_linkStands _)
    · split
      · exact .inl (s.linkFault_linkStands _)
      · exact .inr ⟨_, rfl⟩

/-! ### The commands -/

/-- What the end of a happening and the standing of the link's queues keep, every happening but a CHARACTER and the resets
keeps. -/
theorem exec_keeps_link {P : State → Prop} (hstand : ∀ s x : State, s.linkStands x → P s → P x)
    (hfinish : ∀ x b, P x → P (x.finish b)) {c : Instr} {s s' : State} (htake : takingOf c = none)
    (hreset : ownBlocks c ≠ allBlocks) (hcharacter : ∀ t b, c ≠ .character t b) (hs : P s) (h : exec c s = .next s') :
    P s' := by
  have advanced : ∀ t, P (s.advance t) := fun t => hstand s _ (State.linkStands_of_same rfl rfl) hs
  have closes : ∀ x r u, P x → P (x.closeUnit r u) := fun x r u =>
    hstand x _ (State.closeUnit_linkStands x r u (State.linkStands_of_same rfl rfl))
  have plain : ∀ x : State, x.interp = s.interp → x.tx = s.tx → P x := fun x interp tx =>
    hstand s x (State.linkStands_of_same interp tx) hs
  cases c <;> cases htake <;> simp [ownBlocks, allBlocks] at hreset
  case edgeReceipt t u n kind =>
    exact execEdgeReceipt_keeps (advanced t) (fun b left e hu he => hfinish _ _
      (State.receive_keeps (fun x _ _ _ hx _ _ => hstand x _ (State.linkStands_of_same rfl rfl) hx) closes (advanced t)
        hu he)) h
  case stepTimerExpiry t =>
    exact execStepTimerExpiry_keeps (advanced t)
      (fun us => State.expireAll_keeps closes (fun x b _ hx => hfinish x b hx) us (plain _ rfl rfl)) h
  case settleEnd t => exact execSettleEnd_keeps (advanced t) (fun _ => hfinish _ _ (plain _ (by simp) (by simp))) h
  case character t b => exact absurd rfl (hcharacter t b)
  case framing t =>
    simp only [exec, execFraming] at h
    split at h
    · split at h <;> cases h
      · exact hfinish _ _ (hstand s _ (State.raiseLink_linkStands _ { s.advance t with rx := _ }) hs)
      · exact advanced t
    all_goals
      cases h
      exact advanced t
  case gap t =>
    simp only [exec, execGap] at h
    split at h <;> cases h
    · exact hfinish _ _ (hstand (s.advance t) _ (State.linkFault_linkStands _ _) (advanced t))
    · exact advanced t
  all_goals
    have same : ∀ b, b ∈ [Block.interp, .tx] → sameBlock b s s' := fun b hb => exec_sameBlock h (by
      simp at hb
      rcases hb with rfl | rfl <;> simp [touched, ownBlocks, takingOf])
    exact plain s' (same .interp (by simp)) (same .tx (by simp))

/-- With an empty reply queue and nothing in flight the bounds hold. -/
theorem State.queuesBounded_of_empty {s : State} (requests : s.interp.requests = []) (cache : s.interp.cache = [])
    (queue : s.tx.queue = []) (inFlight : s.tx.inFlight = none) : s.queuesBounded := by
  simp [State.queuesBounded, Interpreter.cacheSound, State.linkBounded, State.placesHeld, State.refusalsWaiting, requests,
    cache, queue, inFlight, ofBit, Config.replyPlaces]

/-- A reset of the part empties every queue. -/
theorem State.cleared_queuesBounded (rx : Receiver) (probes : Vector ProbeLine 16) (s : State) :
    (s.cleared rx probes).queuesBounded := State.queuesBounded_of_empty rfl rfl rfl rfl

/-- A frame that has left keeps the bounds. -/
theorem State.sent_queuesBounded {s : State} (hs : s.queuesBounded) :
    ({ s with tx := { s.tx with inFlight := none } } : State).queuesBounded := by
  obtain ⟨hcache, hrequests, hplaces, hrefusals⟩ := hs
  refine ⟨hcache, hrequests, ?_, hrefusals⟩
  rw [State.placesHeld_eq] at hplaces ⊢
  simp only [Option.any_none] at hplaces ⊢
  simp [ofBit] at hplaces ⊢
  omega

/-- The commands that may reset the part keep the bounds. -/
theorem exec_queuesBounded_of_reset {c : Instr} {s s' : State} (hc : ownBlocks c = allBlocks) (hs : s.queuesBounded)
    (h : exec c s = .next s') : s'.queuesBounded := by
  have cleared : ∀ rx probes (x : State) reason, ((x.cleared rx probes).raiseStart reason).arbitrate.queuesBounded :=
    fun rx probes x reason => State.arbitrate_queuesBounded (State.queuesBounded_of_empty rfl rfl rfl rfl)
  cases c <;> simp [ownBlocks, allBlocks] at hc
  case powerOn t pins rxdLow =>
    cases h
    exact cleared _ _ _ _
  case resetLineAssert t =>
    simp only [exec, execResetLineAssert] at h
    split at h <;> cases h
    · exact hs
    · exact State.queuesBounded_of_empty rfl rfl rfl rfl
  case resetLine t rxdLow =>
    simp only [exec, execResetLine] at h
    split at h <;> cases h
    · exact cleared _ _ _ _
    · exact hs
  case brk t =>
    simp only [exec, execBrk] at h
    split at h <;> cases h
    · have recovered : (s.advance t).recoverLink.queuesBounded :=
        State.queuesBounded_of_stand (State.raiseLink_linkStands .recovery _).1
          (State.queuesBounded_of_empty rfl rfl rfl rfl)
      refine State.arbitrate_queuesBounded ?_
      unfold State.takeBreak
      split
      · exact State.queuesBounded_of_empty rfl rfl rfl rfl
      · exact recovered
    · exact hs
  case frameSent t =>
    simp only [exec, execFrameSent] at h
    split at h
    · cases h
      exact hs
    · next f hf =>
      split at h <;> cases h
      · refine State.arbitrate_queuesBounded ?_
        unfold State.applyAttached
        split
        · exact State.sent_queuesBounded hs
        · exact State.queuesBounded_of_stand ⟨by simp, by simp, by simp, by simp⟩ (State.sent_queuesBounded hs)
        · exact State.queuesBounded_of_empty rfl rfl rfl rfl
      · exact hs

/-- With no FULL reset pending none is owed. -/
theorem State.resetOwed_of_none {s : State} (h : s.interp.resetPending = false) : s.resetOwed := fun hpending => by
  rw [h] at hpending
  cases hpending

/-- The commands that may reset the part keep a FULL reset owed, or carry it out. -/
theorem exec_resetOwed_of_reset {c : Instr} {s s' : State} (hc : ownBlocks c = allBlocks) (hs : s.resetOwed)
    (h : exec c s = .next s') : s'.resetOwed := by
  have cleared : ∀ rx probes (x : State) reason, ((x.cleared rx probes).raiseStart reason).arbitrate.resetOwed :=
    fun rx probes x reason => State.arbitrate_resetOwed (State.resetOwed_of_none rfl)
  cases c <;> simp [ownBlocks, allBlocks] at hc
  case powerOn t pins rxdLow =>
    cases h
    exact cleared _ _ _ _
  case resetLineAssert t =>
    simp only [exec, execResetLineAssert] at h
    split at h <;> cases h
    · exact hs
    · exact State.resetOwed_of_none rfl
  case resetLine t rxdLow =>
    simp only [exec, execResetLine] at h
    split at h <;> cases h
    · exact cleared _ _ _ _
    · exact hs
  case brk t =>
    simp only [exec, execBrk] at h
    split at h <;> cases h
    · refine State.arbitrate_resetOwed ?_
      unfold State.takeBreak
      split
      · exact State.resetOwed_of_none rfl
      · next hnone =>
        refine State.resetOwed_of_none ?_
        have : (s.advance t).recoverLink.interp.resetPending = s.interp.resetPending :=
          (State.raiseLink_linkStands .recovery _).2
        simpa [this] using hnone
    · exact hs
  case frameSent t =>
    simp only [exec, execFrameSent] at h
    split at h
    · cases h
      exact hs
    · next f hf =>
      split at h <;> cases h
      · refine State.arbitrate_resetOwed ?_
        have left : f.attached ≠ .fullReset → ({ s.advance t with tx := { s.tx with inFlight := none } } : State).resetOwed := by
          intro hother hpending
          refine .inl ((hs hpending).resolve_right ?_)
          rw [show s.tx.inFlight = some f from hf]
          simpa using hother
        cases hwhat : f.attached with
        | nothing => exact left (by simp [hwhat])
        | rateSwitch r =>
          exact State.resetOwed_of_stand ⟨⟨by simp [State.applyAttached], by simp [State.applyAttached],
            by simp [State.applyAttached], by simp [State.applyAttached]⟩, by simp [State.applyAttached]⟩
            (left (by simp [hwhat]))
        | fullReset => exact State.resetOwed_of_none rfl
      · exact hs

/-- Every command keeps the bounds. -/
theorem exec_queuesBounded (c : Instr) (s s' : State) (hs : s.queuesBounded) (h : exec c s = .next s') :
    s'.queuesBounded := by
  by_cases hreset : ownBlocks c = allBlocks
  · exact exec_queuesBounded_of_reset hreset hs h
  cases htake : takingOf c with
  | some rb =>
    rw [exec_of_takingOf htake s] at h
    cases h
    exact State.takeRequest_queuesBounded hs fun p x => (rule_queuesStand htake p x).1
  | none =>
    by_cases hcharacter : ∃ t b, c = .character t b
    · obtain ⟨t, b, rfl⟩ := hcharacter
      simp only [exec, execCharacter] at h
      split at h <;> cases h
      · exact hs
      · refine State.finish_queuesBounded _ ?_
        rcases State.assemble_cases b { s.advance t with rx := { s.rx with character := none } } with hx | ⟨f, hx⟩
        · exact State.queuesBounded_of_stand hx.1 hs
        · rw [show ({ s.advance t with rx := { (s.advance t).rx with character := none } } : State).assemble b = _ from hx]
          exact State.handRequest_queuesBounded f hs
    · exact exec_keeps_link (fun s x hx => State.queuesBounded_of_stand hx.1) (fun x b => State.finish_queuesBounded b)
        htake hreset (fun t b hc => hcharacter ⟨t, b, hc⟩) hs h

/-- Every command keeps a FULL reset owed. -/
theorem exec_resetOwed (c : Instr) (s s' : State) (hs : s.resetOwed) (h : exec c s = .next s') : s'.resetOwed := by
  by_cases hreset : ownBlocks c = allBlocks
  · exact exec_resetOwed_of_reset hreset hs h
  cases htake : takingOf c with
  | some rb =>
    rw [exec_of_takingOf htake s] at h
    cases h
    exact State.takeRequest_resetOwed hs fun p x => (rule_queuesStand htake p x).2
  | none =>
    by_cases hcharacter : ∃ t b, c = .character t b
    · obtain ⟨t, b, rfl⟩ := hcharacter
      simp only [exec, execCharacter] at h
      split at h <;> cases h
      · exact hs
      · refine State.finish_resetOwed _ ?_
        rcases State.assemble_cases b { s.advance t with rx := { s.rx with character := none } } with hx | ⟨f, hx⟩
        · exact State.resetOwed_of_stand hx hs
        · rw [show ({ s.advance t with rx := { (s.advance t).rx with character := none } } : State).assemble b = _ from hx]
          exact State.handRequest_resetOwed f hs
    · exact exec_keeps_link (fun s x hx => State.resetOwed_of_stand hx) (fun x b => State.finish_resetOwed b)
        htake hreset (fun t b hc => hcharacter ⟨t, b, hc⟩) hs h

/-- Settles O13: a reply and a refusal join where there is a place, and the FULL reset goes with its reply. -/
theorem stepKeepsLinkBounded : Obligations.StepKeepsLinkBounded :=
  ⟨fun _ _ hcache hlink => step_keeps exec_queuesBounded (fun _ _ hs => hs) (fun _ _ hs => hs) ⟨hcache, hlink⟩,
    fun _ _ => step_keeps exec_resetOwed (fun _ _ hs => hs) fun _ _ hs => hs⟩

end Sys2Proof.Machine
end

section
/-! Serial folds in direction RIGHT, parallel folds, and the known answers (spec/01 R2, R6 to R11). -/

namespace Sys2Proof.Machine

set_option Elab.async false

/-! ### Direction RIGHT -/

/-- The reflected polynomial has the polynomial's bits in reverse stages (R6). -/
theorem reflected_getLsbD {w : Nat} (hw : w ≤ 32) (poly : Word32) (j : Nat) :
    (reflected w poly).getLsbD j = (decide (j < w) && poly.getLsbD (w - 1 - j)) := by
  rw [reflected, BitVec.getLsbD_ushiftRight, BitVec.getLsbD_reverse, BitVec.getMsbD_eq_getLsbD]
  by_cases hj : j < w
  · have hin : 32 - w + j < 32 := by omega
    have hplace : 32 - 1 - (32 - w + j) = w - 1 - j := by omega
    simp [hj, hin, hplace]
  · have hout : ¬32 - w + j < 32 := by omega
    simp [hj, hout]

/-- A stage of a RIGHT fold: the stage above, inverted where the feedback bit and the polynomial's bit are 1 (R6). -/
theorem foldRight_getLsbD {p : Profile} (hw : p.width ≤ 32) {r : Word32} (hr : r.toNat < 2 ^ p.width) (d : Bool)
    (j : Nat) :
    (foldRight p r d).getLsbD j =
      (decide (j < p.width) &&
        ((decide (j + 1 < p.width) && r.getLsbD (j + 1)) ^^
          ((r.getLsbD 0 ^^ d) && p.poly.getLsbD (p.width - 1 - j)))) := by
  have shifted : (r >>> 1).getLsbD j = (decide (j + 1 < p.width) && r.getLsbD (j + 1)) := by
    rw [BitVec.getLsbD_ushiftRight, Nat.add_comm]
    by_cases hj : j + 1 < p.width
    · simp [hj]
    · simp [hj, getLsbD_eq_false_of_fits hr (not_lt.mp hj)]
  unfold foldRight
  cases r.getLsbD 0 ^^ d with
  | false =>
    by_cases hj : j < p.width
    · simp [shifted, hj]
    · simp [shifted, hj, show ¬j + 1 < p.width by omega]
  | true =>
    by_cases hj : j < p.width
    · simp [shifted, reflected_getLsbD hw, hj]
    · simp [shifted, reflected_getLsbD hw, hj, show ¬j + 1 < p.width by omega]

/-- Settles O15: direction RIGHT selects `foldRight`; the top stage takes the polynomial's stage 0, which is 1. -/
theorem rightFoldByStage : Obligations.RightFoldByStage := by
  intro p r d hwf hright hr
  obtain ⟨hpos, hw, -, hodd⟩ := wellFormed_poly hwf
  have serial : serialFold p r d = foldRight p r d := by simp [serialFold, hright]
  rw [serial]
  refine ⟨foldRight_getLsbD hw hr d, ?_⟩
  rw [foldRight_getLsbD hw hr]
  have htop : ¬p.width - 1 + 1 < p.width := by omega
  simp [Nat.sub_lt hpos, htop, hodd]

/-! ### Residues below 2^w -/

/-- A word whose bits from place w on are 0 lies below 2^w. -/
theorem toNat_lt_of_getLsbD {x : Word32} {w : Nat} (h : ∀ j, w ≤ j → x.getLsbD j = false) : x.toNat < 2 ^ w :=
  Nat.lt_pow_two_of_testBit _ h

/-- A serial fold keeps the residue below 2^w (R2, R5, R6). -/
theorem serialFold_lt {p : Profile} (hwf : p.wellFormed = true) {r : Word32} (hr : r.toNat < 2 ^ p.width) (d : Bool) :
    (serialFold p r d).toNat < 2 ^ p.width := by
  obtain ⟨-, hw, hpoly, -⟩ := wellFormed_poly hwf
  refine toNat_lt_of_getLsbD fun j hj => ?_
  unfold serialFold
  cases p.direction with
  | left => simp [foldLeft_getLsbD hw hpoly, hj]
  | right => simp [foldRight_getLsbD hw hr, hj]

/-- Serial folds of several bits keep the residue below 2^w. -/
theorem serialFolds_lt {p : Profile} (hwf : p.wellFormed = true) (bits : List Bool) {r : Word32}
    (hr : r.toNat < 2 ^ p.width) : (bits.foldl (serialFold p) r).toNat < 2 ^ p.width := by
  induction bits generalizing r with
  | nil => exact hr
  | cons d ds ih => exact ih (serialFold_lt hwf hr d)

/-- Byte folds keep the residue below 2^w (R9). -/
theorem foldBytes_lt {p : Profile} (hwf : p.wellFormed = true) (bytes : List Byte) {r : Word32}
    (hr : r.toNat < 2 ^ p.width) : (foldBytes p r bytes).toNat < 2 ^ p.width := by
  unfold foldBytes
  induction bytes generalizing r with
  | nil => exact hr
  | cons b bs ih => exact ih (serialFolds_lt hwf _ hr)

/-- The final mask keeps the residue below 2^w (R2, R10). -/
theorem reportedResidue_lt {p : Profile} (hwf : p.wellFormed = true) {r : Word32} (hr : r.toNat < 2 ^ p.width) :
    (reportedResidue p r).toNat < 2 ^ p.width := by
  have hmask : p.finalMask.toNat < 2 ^ p.width := by
    simp only [Profile.wellFormed, Word32.fits, Bool.and_eq_true, decide_eq_true_eq] at hwf
    exact hwf.2
  rw [reportedResidue, BitVec.toNat_xor]
  exact Nat.xor_lt_two_pow hr hmask

/-! ### Parallel folds -/

/-- The input that enters a stage of a parallel fold (R7). -/
def stageInput (p : Profile) (j : Nat) : Nat := if p.direction = .left then j else p.width - 1 - j

/-- Stages and inputs stand one to one, each way alike. -/
theorem inputStage_eq_iff {p : Profile} {i k : Nat} (hi : i < p.width) (hk : k < p.width) :
    inputStage p i = k ↔ i = stageInput p k := by
  unfold inputStage stageInput
  cases p.direction with
  | left => simp
  | right =>
    simp
    omega

/-- Each stage takes the inputs from `j` on that enter it (R7). -/
theorem combineInputs_getLsbD {p : Profile} (hw : p.width ≤ 32) (inputs : List Bool) (j : Nat) (r : Word32)
    (hlength : j + inputs.length ≤ p.width) {k : Nat} (hk : k < p.width) :
    (combineInputs p j inputs r).getLsbD k =
      (r.getLsbD k ^^ (decide (j ≤ stageInput p k) && inputs.getD (stageInput p k - j) false)) := by
  induction inputs generalizing j r with
  | nil => simp [combineInputs]
  | cons b bs ih =>
    simp only [List.length_cons] at hlength
    have hstage := inputStage_eq_iff (p := p) (i := j) (by omega) hk
    rw [combineInputs, ih (j + 1) _ (by omega)]
    by_cases hj : j = stageInput p k
    · have hplace : inputStage p j = k := hstage.mpr hj
      have hpast : ¬j + 1 ≤ stageInput p k := by omega
      cases b <;> simp [hplace, ← hj, hk.trans_le hw]
    · have hplace : inputStage p j ≠ k := fun h => hj (hstage.mp h)
      have hfirst : (if b then r ^^^ BitVec.twoPow 32 (inputStage p j) else r).getLsbD k = r.getLsbD k := by
        cases b <;> simp [BitVec.getLsbD_twoPow, hplace]
      rw [hfirst]
      by_cases hlt : j + 1 ≤ stageInput p k
      · have hle : j ≤ stageInput p k := by omega
        have hsub : stageInput p k - j = stageInput p k - (j + 1) + 1 := by omega
        simp [hlt, hle, hsub]
      · have hnle : ¬j ≤ stageInput p k := by omega
        simp [hlt, hnle]

/-- Inputs combined keep the residue below 2^w. -/
theorem combineInputs_lt {p : Profile} (inputs : List Bool) (j : Nat) {r : Word32}
    (hlength : j + inputs.length ≤ p.width) (hr : r.toNat < 2 ^ p.width) :
    (combineInputs p j inputs r).toNat < 2 ^ p.width := by
  induction inputs generalizing j r with
  | nil => exact hr
  | cons b bs ih =>
    simp only [List.length_cons] at hlength
    refine ih (j + 1) (by omega) ?_
    cases b with
    | false => exact hr
    | true =>
      have hstage : inputStage p j < p.width := by
        unfold inputStage
        cases p.direction <;> dsimp only <;> omega
      simp only [if_true, BitVec.toNat_xor]
      refine Nat.xor_lt_two_pow hr ?_
      rw [BitVec.toNat_twoPow]
      exact (Nat.mod_le _ _).trans_lt (Nat.pow_lt_pow_right (by decide) hstage)

/-- Settles O16: the inputs of a parallel fold enter stages of their own, and every fold stays below 2^w stage by stage. -/
theorem parallelFoldByStage : Obligations.ParallelFoldByStage := by
  refine ⟨fun p r inputs hwf _ hlength j hj => ?_, fun p r hwf hr => ?_⟩
  · obtain ⟨-, hw, -, -⟩ := wellFormed_poly hwf
    rw [parallelFold, combineInputs_getLsbD hw inputs 0 _ (by omega) hj]
    simp [stageInput]
  · exact ⟨fun d => serialFold_lt hwf hr d,
      fun inputs hlength => combineInputs_lt inputs 0 (by omega) (serialFold_lt hwf hr false),
      fun bytes => foldBytes_lt hwf bytes hr, reportedResidue_lt hwf hr⟩

/-! ### The fixed profiles -/

/-- Bytes folded in two parts are bytes folded at once (R9). -/
theorem foldBytes_append (p : Profile) (r : Word32) (a b : List Byte) :
    foldBytes p (foldBytes p r a) b = foldBytes p r (a ++ b) := List.foldl_append.symm

/-- The known answer of slot 14 (R11). -/
theorem fixed14_answer :
    reportedResidue fixed14 (foldBytes fixed14 0xFFFF [0x31, 0x32, 0x33, 0x34, 0x35, 0x36, 0x37, 0x38, 0x39]) = 0x29B1 := by
  decide +kernel

/-- The known answer of slot 15 (R11). -/
theorem fixed15_answer :
    reportedResidue fixed15 (foldBytes fixed15 0xFFFFFFFF [0x31, 0x32, 0x33, 0x34, 0x35, 0x36, 0x37, 0x38, 0x39]) =
      0xCBF43926 := by
  decide +kernel

/-- Settles O17: the parts fold as the whole does, whose answers the model computes. -/
theorem fixedProfilesKnownAnswers : Obligations.FixedProfilesKnownAnswers := by
  intro a b h
  rw [foldBytes_append, foldBytes_append, h]
  exact ⟨fixed14_answer, fixed15_answer⟩

end Sys2Proof.Machine
end

section
/-! The state right after power-on meets every law that the steps keep (spec/09 R174). -/

namespace Sys2Proof.Machine

set_option Elab.async false

/-- The blocks of the state after power-on are those that every reset leaves. -/
theorem State.reset_fresh : freshBlocks (fun _ => false) State.reset := by
  simp [freshBlocks, State.reset, ProbeLine.afterReset, Sequencer.afterReset, ResultQueue.afterReset,
    FlagLine.afterReset]

/-- Settles O6: after power-on every table, queue and unit is empty, and every line at rest. -/
theorem resetStateMeetsInvariants : Obligations.ResetStateMeetsInvariants := by
  obtain ⟨probes, profiles, steps, units, seq, queue, flags⟩ := State.reset_fresh
  refine ⟨State.probesConsistent_of_afterReset probes, ⟨fun n p h => ?_, fun n r h => ?_⟩,
    State.unitsBound_of_free (.inl (by rw [seq])) units, ⟨fun u b h => ?_, fun i c h => ?_, fun r h => ?_⟩,
    ⟨?_, fun i h => ?_⟩, fun n _ => ?_, fun n _ _ => ?_, fun _ n => ?_, ?_, ?_, State.resetOwed_of_none rfl⟩
  · simp [profiles n] at h
  · simp [steps n] at h
  · simp [units u] at h
  · simp [seq] at h
  · simp [queue] at h
  · simp [queue]
  · simp [queue] at h
  · simp [flags n]
  · simp [flags n, FlagLine.latest, State.targetOf, State.sourceValue]
  · simp [flags n]
  · exact ⟨Nat.zero_le _, List.nodup_nil⟩
  · exact ⟨Nat.zero_le _, by decide, Nat.zero_le _⟩

end Sys2Proof.Machine
end

section
/-! The taking of a request, told from the blocks its rule reaches (spec/09 R158). -/

namespace Sys2Proof.Machine

set_option Elab.async false

/-! ### What stands -/

/-- What leaves all but some blocks leaves all but more blocks. -/
theorem unchangedBut.mono {bs cs : List Block} {s s' : State} (h : unchangedBut bs s s') (hsub : bs ⊆ cs) :
    unchangedBut cs s s' :=
  ⟨fun b hb => h.1 b fun hin => hb (hsub hin), h.2⟩

/-- A block that stands need not be named among those that may change. -/
theorem unchangedBut.strike {bs : List Block} {b : Block} {s s' : State} (h : unchangedBut bs s s')
    (hb : sameBlock b s s') : unchangedBut (bs.filter (· ≠ b)) s s' := by
  refine ⟨fun c hc => ?_, h.2⟩
  by_cases hcb : c = b
  · exact hcb ▸ hb
  · exact h.1 c fun hin => hc (List.mem_filter.mpr ⟨hin, decide_eq_true hcb⟩)

/-! ### An accepted taking -/

/-- A taking whose rule reaches neither interpreter nor transmitter: the reply is given, the settings and the notices
but PLAN stand, and so does every block that the rule does not reach but the flag lines, which note what has changed of
their targets (spec/09 R158). -/
theorem exec_taken {c : Instr} {s x : State} {f : Frame} {rest : List Frame} {row : Frame → Bool}
    {body : List Byte → State → State × Reply} {t : Nat} {r : Reply} {bs : List Block}
    (hexec : exec c s = .next ((s.advance t).takeRequest row body)) (h : Takes s f rest) (hrow : row f = true)
    (hbody : body f.payload ((s.advance t).popped rest) = (x, r)) (hx : reaches bs ((s.advance t).popped rest) x)
    (hinterp : Block.interp ∉ bs) (htx : Block.tx ∉ bs) :
    ∃ s', exec c s = .next s' ∧ answeredWith r.attached f rest r.payload s s' ∧ sameSettings s s' ∧
      sameNoticesButPlan s s' ∧ unchangedBut (bs ++ [.flags, .interp, .tx]) s s' ∧
      TakingEnds f rest r.payload r.attached s x s' t := by
  obtain ⟨hnow, hblocks, hreset, hpending, hchoices⟩ := hx
  have interp : x.interp = ((s.advance t).popped rest).interp := hblocks _ hinterp
  have tx : x.tx = s.tx := hblocks _ htx
  have ends := State.taking_ends h hrow hbody rfl (congrArg Interpreter.requests interp)
    (congrArg Transmitter.queue tx) (congrArg Transmitter.inFlight tx) (congrArg Transmitter.freeAt tx)
  obtain ⟨start, link, results⟩ := ends.notices
  refine ⟨_, hexec, State.taking_answered h hrow hbody rfl interp tx (writeCache_cacheWritten _ _ _), ?_, ?_, ?_, ends⟩
  · exact ⟨by rw [ends.interp, interp]; rfl, by rw [ends.interp, interp]; rfl⟩
  · exact ⟨start.trans (congrArg _ tx), link.trans (congrArg _ tx), results.trans (congrArg _ tx)⟩
  · refine ⟨fun b hb => ?_, ends.nResetLow.trans hreset, ends.pending.trans hpending, ends.choices.trans hchoices⟩
    simp only [List.mem_append, List.mem_cons, List.not_mem_nil, or_false, not_or] at hb
    have same := hblocks b hb.1
    cases b
    case probes => exact ends.probes.trans same
    case profiles => exact ends.profiles.trans same
    case steps => exact ends.steps.trans same
    case units => exact ends.units.trans same
    case seq => exact ends.seq.trans same
    case queue => exact ends.queue.trans same
    case flags => exact absurd rfl hb.2.1
    case rx => exact ends.rx.trans same
    case interp => exact absurd rfl hb.2.2.1
    case tx => exact absurd rfl hb.2.2.2

section
variable {f : Frame} {rest : List Frame} {p : List Byte} {a : Attached} {s x s' : State} {t : Nat}

/-- A taking happens at the later of the present instant and its own (spec/00 0.8.4). -/
theorem TakingEnds.now_eq (h : TakingEnds f rest p a s x s' t) (hx : x.now = max s.now t) : s'.now = max s.now t :=
  h.now.trans hx

/-- The lines note what has changed of their targets since the taking began (spec/07 R126). -/
theorem TakingEnds.linesNoted (h : TakingEnds f rest p a s x s' t) (hx : x.now = max s.now t) :
    Machine.linesNoted { s with now := s'.now } s' fun n => x.flags[n] := by
  rw [h.now_eq hx]
  exact h.lines

/-- A taking that leaves the plan condition raises no notice but those of its rule (spec/05 R104). -/
theorem TakingEnds.sameNotices (h : TakingEnds f rest p a s x s' t) (htx : x.tx = s.tx)
    (hcond : s.seq.plan.condition = x.seq.plan.condition) : Machine.sameNotices s s' := by
  obtain ⟨start, link, results⟩ := h.notices
  exact ⟨start.trans (congrArg _ htx), link.trans (congrArg _ htx), (h.planKept hcond).trans (congrArg _ htx),
    results.trans (congrArg _ htx)⟩

/-- A taking that changes no target leaves the lines as its rule does (spec/07 R126). -/
theorem TakingEnds.flags_of_open (h : TakingEnds f rest p a s x s' t) (hx : x.now = max s.now t)
    (hflags : x.flags = s.flags) (hplan : x.seq.plan = s.seq.plan) (hopen : ∀ u, x.isOpen u = s.isOpen u)
    (hqueue : x.queue = s.queue) : s'.flags = s.flags := by
  refine (h.flagsKept fun n => ?_).trans hflags
  rw [hflags]
  have window : x.windowSignal = (s.advance t).windowSignal := congrArg (allUnits.any ·) (funext hopen)
  unfold State.targetOf State.sourceValue
  rw [hplan, hqueue, hx, window]
  rfl

end

/-! ### Bits in bytes -/

/-- The bits of a number made of bits. -/
theorem ofBits_testBit (bs : List Bool) (i : Nat) : (ofBits bs).testBit i = bs.getD i false := by
  induction bs generalizing i with
  | nil => simp [ofBits]
  | cons b bs ih =>
    cases i with
    | zero => cases b <;> simp [ofBits, ofBit, Nat.testBit_zero, Nat.add_mod]
    | succ i =>
      rw [ofBits, Nat.testBit_succ]
      have half : (ofBit b + 2 * ofBits bs) / 2 = ofBits bs := by
        cases b
        · simp [ofBit]
        · simp only [ofBit, if_true]
          omega
      rw [half, ih]
      rfl

/-- A number of bits is below the power of two of their count. -/
theorem ofBits_lt (bs : List Bool) : ofBits bs < 2 ^ bs.length := by
  induction bs with
  | nil => exact Nat.one_pos
  | cons b bs ih =>
    rw [ofBits, List.length_cons, Nat.pow_succ]
    have bit : ofBit b ≤ 1 := by cases b <;> decide
    omega

/-- Two bytes carry a number below 65536. -/
theorem leBytes_two {n : Nat} (h : n < 2 ^ 16) : ∃ b0 b1 : Byte, leBytes 2 n = [b0, b1] ∧ b0.toNat + 256 * b1.toNat = n :=
  ⟨byteOf n, byteOf (n / 256), rfl, by
    simp only [byteOf_toNat]
    omega⟩

end Sys2Proof.Machine
end

section
/-! The stability filter, command by command: what PIN_CHANGE and FILTER_EXPIRY do to a line and to the units
(spec/02 R22, R24, R25). -/

namespace Sys2Proof.Machine

set_option Elab.async false

/-! ### One line -/

/-- A line accepts the level that differs from its probe level: the level turns and the mark is set (spec/02 R22 row
4). -/
theorem ProbeLine.accept_of_pending {p : ProbeLine} {start : Nat} (hc : p.consistent) (hp : p.state = .pending start) :
    p.accept = { p with level := !p.level, state := .steady, mark := true } := by
  have differs : p.inverted ≠ p.level := by simpa [ProbeLine.consistent, hp] using hc
  have turned : p.inverted = !p.level := Bool.eq_not.mpr differs
  simp [ProbeLine.accept, ProbeLine.takeLevel, turned]

/-- A line with F = 0 takes the level of its changed pin at once (spec/02 R22 row 1). -/
theorem ProbeLine.filterChange_of_unfiltered {p : ProbeLine} {b : Bool} (now : Nat) (hc : p.consistent)
    (hs : p.state = .steady) (hpin : p.pin ≠ b) (hf : p.filter = 0) :
    { p with pin := b }.filterChange now = { p with pin := b, level := !p.level, mark := true } := by
  have level : (p.pin ^^ p.invert) = p.level := by simpa [ProbeLine.consistent, ProbeLine.inverted, hs] using hc
  have turned : (b ^^ p.invert) = !p.level := by
    rw [← level, Bool.eq_not.mpr hpin.symm, Bool.not_xor]
  simp [ProbeLine.filterChange, hs, hf, ProbeLine.takeLevel, ProbeLine.inverted, turned]

/-- A steady line with F above 0 waits with its changed pin (spec/02 R22 row 2). -/
theorem ProbeLine.filterChange_of_filtered {p : ProbeLine} (b : Bool) (now : Nat) (hs : p.state = .steady)
    (hf : 0 < p.filter) : { p with pin := b }.filterChange now = { p with pin := b, state := .pending now } := by
  simp [ProbeLine.filterChange, hs, Nat.ne_of_gt hf]

/-- A pending change that goes back is dropped (spec/02 R22 row 3). -/
theorem ProbeLine.filterChange_of_pending {p : ProbeLine} {start : Nat} (b : Bool) (now : Nat)
    (hp : p.state = .pending start) : { p with pin := b }.filterChange now = { p with pin := b, state := .steady } := by
  simp [ProbeLine.filterChange, hp]

/-- A pending change has run when its filter time has passed (spec/02 R22 row 4). -/
theorem ProbeLine.filterDone_of_pending {p : ProbeLine} {start : Nat} (now : Nat) (hp : p.state = .pending start) :
    p.filterDone now = decide (start + micros p.filter ≤ now) := by
  simp [ProbeLine.filterDone, hp]

/-! ### A line and the units -/

/-- A line that takes a value with the probe level it had makes no edge (spec/02 R24). -/
theorem State.setLine_of_same {n : Fin 16} {p : ProbeLine} {s : State} (h : p.level = (s.probes[n]).level) :
    s.setLine n p = { s with probes := s.probes.set n p } := if_pos h.symm

/-- A line whose probe level turns makes one edge, delivered to every unit by R25 (spec/02 R24, R25). -/
theorem State.setLine_of_turned {n : Fin 16} {p : ProbeLine} {s : State} (h : p.level = !(s.probes[n]).level)
    (u : Fin 8) : (s.setLine n p).units[u] = (s.units[u]).map
      (Bound.deliver { line := n, kind := if (s.probes[n]).level then .falling else .rising }) := by
  unfold State.setLine
  dsimp only
  rw [h, if_neg (by simp), State.deliverEdge, getElem_ofFn_fin]
  cases (s.probes[n]).level <;> rfl

/-- A line whose filter time has not run stands (spec/02 R22). -/
theorem State.acceptDue_of_not_done {n : Fin 16} {s : State} (h : (s.probes[n]).filterDone s.now = false) :
    s.acceptDue n = s := if_neg (by rw [h]; exact Bool.false_ne_true)

/-- A line whose filter time has run accepts its pending level (spec/02 R22 row 4). -/
theorem State.acceptDue_of_done {n : Fin 16} {s : State} (h : (s.probes[n]).filterDone s.now = true) :
    s.acceptDue n = s.setLine n (s.probes[n]).accept := if_pos h

/-- A pending level that has held for its filter time is accepted with its mark and one edge (spec/02 R22 row 4,
R24). -/
theorem State.acceptDue_of_pending {n : Fin 16} {s : State} {start : Nat} (hp : (s.probes[n]).state = .pending start)
    (hc : (s.probes[n]).consistent) (h : start + micros (s.probes[n]).filter ≤ s.now) :
    (s.acceptDue n).probes =
      s.probes.set n { s.probes[n] with level := !(s.probes[n]).level, state := .steady, mark := true } ∧
    ∀ u : Fin 8, (s.acceptDue n).units[u] = (s.units[u]).map
      (Bound.deliver { line := n, kind := if (s.probes[n]).level then .falling else .rising }) := by
  have done : (s.probes[n]).filterDone s.now = true := by
    rw [ProbeLine.filterDone_of_pending _ hp]
    exact decide_eq_true h
  have accepted := ProbeLine.accept_of_pending hc hp
  rw [State.acceptDue_of_done done, accepted]
  exact ⟨State.setLine_probes .., State.setLine_of_turned rfl⟩

/-! ### The commands -/

/-- A PIN_CHANGE that changes no level does nothing (spec/02 R21). -/
theorem execPinChange_of_same {n : Fin 16} {b : Bool} {s : State} (t : Nat) (h : (s.probes[n]).pin = b) :
    exec (.pinChange t n b) s = .next (s.advance t) := if_pos h

/-- A FILTER_EXPIRY of a line whose filter time has not run does nothing (spec/02 R22 row 4). -/
theorem execFilterExpiry_of_not_done {n : Fin 16} {s : State} (t : Nat)
    (h : (s.probes[n]).filterDone (s.advance t).now = false) :
    exec (.filterExpiry t n) s = .next (s.advance t) := by
  show execFilterExpiry t n s = _
  rw [execFilterExpiry, State.acceptDue_of_not_done (s := s.advance t) h]

/-- What a PIN_CHANGE leaves when the level changes and nRESET is high: a level that has held is accepted, then the
filter sees the change (spec/02 R22). -/
def State.pinChanged (n : Fin 16) (b : Bool) (s : State) : State :=
  (s.acceptDue n).setLine n ({ (s.acceptDue n).probes[n] with pin := b }.filterChange s.now)

/-- A PIN_CHANGE of a level with nRESET high acts through the filter (spec/02 R22). -/
theorem execPinChange_of_changed {n : Fin 16} {b : Bool} {s : State} (t : Nat) (hreset : s.nResetLow = false)
    (h : (s.probes[n]).pin ≠ b) : exec (.pinChange t n b) s = .next ((s.advance t).pinChanged n b) :=
  (if_neg h).trans (if_neg (by simp [State.advance, hreset]))

/-- No other line is reached by a PIN_CHANGE (spec/02 R22). -/
theorem State.pinChanged_other {n m : Fin 16} (b : Bool) (s : State) (h : m ≠ n) :
    (s.pinChanged n b).probes[m] = s.probes[m] := by
  unfold State.pinChanged State.acceptDue
  split <;> simp only [State.setLine_probes, getElem_set_fin, if_neg h]

/-- A changed pin of an unpending line with F = 0 turns its level, with a mark and an edge (spec/02 R22 row 1, R24). -/
theorem State.pinChanged_of_unfiltered {n : Fin 16} {b : Bool} {s : State} (hc : (s.probes[n]).consistent)
    (hpin : (s.probes[n]).pin ≠ b) (hs : (s.probes[n]).state = .steady) (hf : (s.probes[n]).filter = 0) :
    (s.pinChanged n b).probes[n] = { s.probes[n] with pin := b, level := !(s.probes[n]).level, mark := true } ∧
    ∀ u : Fin 8, (s.pinChanged n b).units[u] = (s.units[u]).map
      (Bound.deliver { line := n, kind := if (s.probes[n]).level then .falling else .rising }) := by
  have stands : s.acceptDue n = s := State.acceptDue_of_not_done (by rw [ProbeLine.filterDone, hs])
  unfold State.pinChanged
  rw [stands, ProbeLine.filterChange_of_unfiltered _ hc hs hpin hf]
  exact ⟨by simp, State.setLine_of_turned rfl⟩

/-- A line whose filter keeps the level it had makes no edge at a changed pin (spec/02 R22 rows 2 and 3). -/
theorem State.pinChanged_of_kept {n : Fin 16} {b : Bool} {s : State} {q : ProbeLine}
    (hdone : (s.probes[n]).filterDone s.now = false)
    (hq : { s.probes[n] with pin := b }.filterChange s.now = q) (hlevel : q.level = (s.probes[n]).level) :
    (s.pinChanged n b).probes[n] = q ∧ (s.pinChanged n b).units = s.units := by
  unfold State.pinChanged
  rw [State.acceptDue_of_not_done hdone, hq, State.setLine_of_same hlevel]
  exact ⟨by simp, rfl⟩

/-- A level that has held for exactly F is seen, with its mark and its edge, before its line is pending again (spec/02
R22 rows 4 and 2). -/
theorem State.pinChanged_of_held {n : Fin 16} {s : State} {start : Nat} (b : Bool)
    (hp : (s.probes[n]).state = .pending start) (hc : (s.probes[n]).consistent)
    (h : start + micros (s.probes[n]).filter ≤ s.now) (hf : 0 < (s.probes[n]).filter) :
    (s.pinChanged n b).probes[n] =
      { s.probes[n] with pin := b, level := !(s.probes[n]).level, mark := true, state := .pending s.now } ∧
    ∀ u : Fin 8, (s.pinChanged n b).units[u] = (s.units[u]).map
      (Bound.deliver { line := n, kind := if (s.probes[n]).level then .falling else .rising }) := by
  obtain ⟨probes, units⟩ := State.acceptDue_of_pending hp hc h
  have line : (s.acceptDue n).probes[n] =
      { s.probes[n] with level := !(s.probes[n]).level, state := .steady, mark := true } := by
    rw [probes, getElem_set_fin, if_pos rfl]
  unfold State.pinChanged
  rw [line, ProbeLine.filterChange_of_filtered (p := { s.probes[n] with
    level := !(s.probes[n]).level, state := .steady, mark := true }) b s.now rfl hf,
    State.setLine_of_same (by rw [line])]
  exact ⟨by simp, units⟩

/-! ### The delivery of an edge -/

/-- A line is named by a lane of a probe mode as a data line, clock or qualifier, or by a start or stop edge (spec/02
R25). -/
def roleOnLine (l : Lane) (p : ProbeInput) (n : Fin 16) : Prop :=
  p.data.getLsbD n.val = true ∨ p.clock.line = n ∨ (∃ q, p.qualifier = some q ∧ q.line = n) ∨
    (∃ x, l.start = .edge x ∧ x.line = n) ∨ (∃ x, l.stop = .edge x ∧ x.line = n)

/-- The test of a lane of a probe mode says whether it names the line (spec/02 R25). -/
theorem laneNames_iff {l : Lane} {p : ProbeInput} (h : l.mode = .serial p ∨ l.mode = .parallel p) (n : Fin 16) :
    laneNames l n = true ↔ roleOnLine l p n := by
  have input : laneNames l n = (inputNames p n ||
      (match l.start with | .edge e => decide (e.line = n) | .immediate => false | .host => false) ||
      (match l.stop with | .edge e => decide (e.line = n) | .count _ => false | .host => false)) := by
    obtain h | h := h <;> rw [laneNames, h] <;> rfl
  rw [input]
  cases hs : l.start <;> cases hp : l.stop <;>
    simp [roleOnLine, inputNames, hs, hp, Option.any_eq_true, or_assoc]

/-- A lane of mode HOST without edges names no line (spec/02 R25). -/
theorem laneNames_of_host {l : Lane} (n : Fin 16) (hm : l.mode = .host) (hs : ∀ x, l.start ≠ .edge x)
    (hp : ∀ x, l.stop ≠ .edge x) : laneNames l n = false := by
  cases start : l.start <;> cases stop : l.stop <;> simp_all [laneNames]

/-- Settles O18, by the rows of the filter: what the line becomes, and whether its level has turned. -/
theorem probeEdgesFollowFilter : Obligations.ProbeEdgesFollowFilter := by
  refine ⟨fun t n b s hreset hc => ⟨execPinChange_of_same t, fun hpin => ?changed⟩, fun t n s => ⟨fun hs => ?steady,
    fun start hp => ⟨fun early => ?early, fun held hc => ?held⟩⟩, fun e b => ⟨fun hclosed => ?closed,
    fun hm hs hp => ?host, fun hopen p hm => ⟨fun named => ?named, fun unnamed => ?unnamed⟩⟩⟩
  case changed =>
    have frame {x : Block} (hx : x ∉ touched (.pinChange t n b)) := exec_sameBlock
      (execPinChange_of_changed t hreset hpin) hx
    refine ⟨_, execPinChange_of_changed t hreset hpin, ?_, fun m hm => State.pinChanged_other b _ hm,
      fun hs hf => State.pinChanged_of_unfiltered (s := s.advance t) hc hpin hs hf, fun hs hf => ?_,
      fun start hp => ⟨fun early => ?_, fun held hf => ?_⟩⟩
    · refine ⟨fun x hx => frame (by simpa [touched, ownBlocks, takingOf] using hx), ?_⟩
      simp [State.pinChanged, State.advance]
    · exact State.pinChanged_of_kept (s := s.advance t) (by simp [-Fin.getElem_fin, ProbeLine.filterDone, State.advance, hs])
        ((ProbeLine.filterChange_of_filtered b _ hs hf).trans (by simp [State.pinChanged])) rfl
    · have running : ¬(start + micros (s.probes[n]).filter ≤ (s.advance t).now) := by simpa [State.advance] using early
      exact State.pinChanged_of_kept (s := s.advance t)
        ((ProbeLine.filterDone_of_pending _ hp).trans (decide_eq_false running))
        (ProbeLine.filterChange_of_pending b _ hp) rfl
    · have held : start + micros (s.probes[n]).filter ≤ (s.advance t).now := by simpa [State.advance] using held
      obtain ⟨line, units⟩ := State.pinChanged_of_held (s := s.advance t) b hp hc held hf
      exact ⟨line.trans (by simp [State.pinChanged, State.advance]), units⟩
  case steady =>
    exact execFilterExpiry_of_not_done t (by rw [ProbeLine.filterDone, hs])
  case early =>
    have running : ¬(start + micros (s.probes[n]).filter ≤ (s.advance t).now) := by simpa [State.advance] using early
    exact execFilterExpiry_of_not_done t ((ProbeLine.filterDone_of_pending _ hp).trans (decide_eq_false running))
  case held =>
    have held : start + micros (s.probes[n]).filter ≤ (s.advance t).now := by simpa [State.advance] using held
    obtain ⟨probes, units⟩ := State.acceptDue_of_pending (s := s.advance t) hp hc held
    refine ⟨_, rfl, ⟨fun x hx => exec_sameBlock (c := .filterExpiry t n) rfl
      (by simpa [touched, ownBlocks, takingOf] using hx), by simp [State.advance]⟩, fun m hm => ?_, ?_, units⟩
    · rw [probes, getElem_set_fin, if_neg hm]
      rfl
    · rw [probes, getElem_set_fin, if_pos rfl]
      rfl
  case closed => exact if_neg (by simp [hclosed])
  case host => exact if_neg (by simp [laneNames_of_host _ hm hs hp])
  case named => exact if_pos ⟨hopen, (laneNames_iff hm _).mpr named⟩
  case unnamed => exact if_neg fun h => unnamed ((laneNames_iff hm _).mp h.2)

end Sys2Proof.Machine
end

section
/-! SET PROBE and READ PROBES (spec/02 R28, R29, R30). -/

namespace Sys2Proof.Machine

set_option Elab.async false

/-- A line at new settings: steady at its level, at the other level with a mark, or pending (spec/02 R29). -/
theorem ProbeLine.configure_eq (now : Nat) (invert : Bool) (filter : Nat) (p : ProbeLine) :
    p.configure now invert filter =
      if (p.pin ^^ invert) = p.level then { p with invert := invert, filter := filter, state := .steady }
      else if filter = 0 then
        { p with invert := invert, filter := filter, level := !p.level, mark := true, state := .steady }
      else { p with invert := invert, filter := filter, state := .pending now } := by
  by_cases level : (p.pin ^^ invert) = p.level
  · exact (if_pos level).trans (if_pos level).symm
  · have taken : ({ p with invert := invert, filter := filter } : ProbeLine).takeLevel (p.pin ^^ invert) =
        { p with invert := invert, filter := filter, level := !p.level, mark := true } := by
      rw [ProbeLine.takeLevel, if_neg fun h => level h.symm, Bool.eq_not.mpr level]
    have configured : p.configure now invert filter = _ := if_neg level
    rw [configured, if_neg level, ProbeLine.inverted, taken]

/-- Lines of a list take settings one after another: each that the mask names is configured once, and no other is
reached (spec/02 R29). -/
theorem State.configureEach_line (mask : BitVec 16) (invert : Bool) (filter : Nat) {lines : List (Fin 16)}
    (hl : lines.Nodup) (s : State) (n : Fin 16) :
    (lines.foldl (fun x m => if mask.getLsbD m.val then x.setLine m (x.probes[m].configure x.now invert filter) else x)
      s).probes[n] =
      if n ∈ lines ∧ mask.getLsbD n.val = true then s.probes[n].configure s.now invert filter else s.probes[n] := by
  induction lines generalizing s with
  | nil => exact (if_neg fun h => absurd h.1 List.not_mem_nil).symm
  | cons m lines ih =>
    obtain ⟨fresh, rest⟩ := List.nodup_cons.mp hl
    rw [List.foldl_cons, ih rest]
    by_cases hm : mask.getLsbD m.val = true
    · rw [if_pos hm, State.setLine_probes, getElem_set_fin]
      by_cases hnm : n = m
      · subst hnm
        simp [fresh, hm]
      · simp [hnm]
    · rw [if_neg hm]
      by_cases hnm : n = m
      · subst hnm
        rw [if_neg fun h => hm h.2, if_neg fun h => hm h.2]
      · simp [hnm]

/-- Every line of the mask is configured once, and no other is reached (spec/02 R29). -/
theorem State.configureLines_line (mask : BitVec 16) (invert : Bool) (filter : Nat) (s : State) (n : Fin 16) :
    (s.configureLines mask invert filter).probes[n] =
      if mask.getLsbD n.val = true then s.probes[n].configure s.now invert filter else s.probes[n] := by
  have every : n ∈ allLines := by revert n; decide
  rw [State.configureLines, State.configureEach_line mask invert filter (by decide) s n]
  simp [every]

/-- The settings of lines open and close no window (spec/02 R29). -/
theorem State.configureLines_isOpen (mask : BitVec 16) (invert : Bool) (filter : Nat) (s : State) (u : Fin 8) :
    (s.configureLines mask invert filter).isOpen u = s.isOpen u := by
  unfold State.configureLines
  generalize allLines = lines
  induction lines generalizing s with
  | nil => rfl
  | cons n lines ih =>
    rw [List.foldl_cons, ih]
    split
    · exact State.setLine_isOpen ..
    · rfl

/-- With every unit IDLE no edge is delivered, whatever the line takes (spec/02 R25). -/
theorem State.setLine_idle (n : Fin 16) (p : ProbeLine) {s : State} (h : ∀ u : Fin 8, s.units[u] = none) (u : Fin 8) :
    (s.setLine n p).units[u] = none := by
  unfold State.setLine
  dsimp only
  split
  · exact h u
  · rw [State.deliverEdge, getElem_ofFn_fin]
    exact congrArg (Option.map _) (h u)

/-- With every unit IDLE the settings of lines reach no unit (spec/02 R25, R29). -/
theorem State.configureLines_idle (mask : BitVec 16) (invert : Bool) (filter : Nat) {s : State}
    (h : ∀ u : Fin 8, s.units[u] = none) (u : Fin 8) : (s.configureLines mask invert filter).units[u] = none := by
  unfold State.configureLines
  generalize allLines = lines
  induction lines generalizing s with
  | nil => exact h u
  | cons n lines ih =>
    rw [List.foldl_cons]
    refine ih ?_
    split
    · exact State.setLine_idle n _ h
    · exact h

/-- SET PROBE with a payload of the wrong length (spec/10 10.3). -/
theorem setProbe_of_length {payload : List Byte} (h : payload.length ≠ 4) (s : State) :
    setProbe payload s = (s, .refuse .malformed) := by
  unfold setProbe
  split
  · exact absurd rfl h
  · rfl

/-- SET PROBE with its four bytes (spec/02 R28, R29). -/
theorem setProbe_of_bytes (m0 m1 o w : Byte) (s : State) :
    setProbe [m0, m1, o, w] s =
      if s.seq.plan ≠ .idle then (s, .refuse .planActive)
      else (s.configureLines (BitVec.ofNat 16 (ofLeBytes [m0, m1])) (bitOf o 0) w.toNat, .okWith []) := rfl

/-- A request without parameters that carries some is malformed (spec/10 10.3). -/
theorem noParameters_of_payload {own : State → State × Reply} {payload : List Byte} (h : payload ≠ []) (s : State) :
    noParameters own payload s = (s, .refuse .malformed) := by
  unfold noParameters
  split
  · exact absurd (List.isEmpty_iff.mp ‹_›) h
  · rfl

/-- A request without parameters does what its rule does (spec/10 10.3). -/
theorem noParameters_of_nil {own : State → State × Reply} {payload : List Byte} (h : payload = []) (s : State) :
    noParameters own payload s = own s := by
  rw [h]
  rfl

/-- Bit `n` of the mask that two bytes carry. -/
theorem lineMask_getLsbD (m0 m1 : Byte) (n : Fin 16) :
    (BitVec.ofNat 16 (ofLeBytes [m0, m1])).getLsbD n.val = (m0.toNat + 256 * m1.toNat).testBit n.val := by
  rw [BitVec.getLsbD_ofNat, decide_eq_true n.isLt, Bool.true_and, ofLeBytes_pair]

/-- Bit `n` of the sixteen truth values of the lines. -/
theorem lineBits_testBit (g : Fin 16 → Bool) (n : Fin 16) : (ofBits (allLines.map g)).testBit n.val = g n := by
  have place : allLines[n.val]? = some n := by revert n; decide
  rw [ofBits_testBit, List.getD_eq_getElem?_getD, List.getElem?_map, place]
  rfl

/-- READ PROBES packs the levels and the marks into two bytes each, and clears the marks (spec/02 R30). -/
theorem readProbes_bytes (s : State) : ∃ l0 l1 k0 k1 : Byte,
    readProbes s =
      ({ s with probes := Vector.ofFn fun n => { s.probes[n] with mark := false } }, .okWith [l0, l1, k0, k1]) ∧
    (∀ n : Fin 16, (l0.toNat + 256 * l1.toNat).testBit n.val = (s.probes[n]).level) ∧
    ∀ n : Fin 16, (k0.toNat + 256 * k1.toNat).testBit n.val = (s.probes[n]).mark := by
  obtain ⟨l0, l1, levels, level⟩ := leBytes_two (ofBits_lt (allLines.map s.levelOf))
  obtain ⟨k0, k1, marks, mark⟩ := leBytes_two (ofBits_lt (allLines.map fun n => (s.probes[n]).mark))
  refine ⟨l0, l1, k0, k1, ?_, fun n => ?_, fun n => ?_⟩
  · rw [readProbes, levels, marks]
    rfl
  · rw [level, lineBits_testBit]
    rfl
  · rw [mark, lineBits_testBit]

/-- Settles O19: SET PROBE configures each named line once, and READ PROBES packs the levels and marks into bytes. -/
theorem probeRequestsSetAndReport : Obligations.ProbeRequestsSetAndReport := by
  refine ⟨fun t s f rest h hkind => ⟨fun hlen => ?malformed, fun m0 m1 o w hp => ⟨fun hplan => ?active,
    fun hplan => ?set⟩⟩, fun t s f rest h hkind => ⟨fun hlen => ?malformedRead, fun hp => ?read⟩⟩
  case malformed =>
    exact exec_answeredOnly (r := .refuse .malformed) rfl h (by simp [Frame.isKind, hkind, ReqKind.ofCode])
      (setProbe_of_length hlen _) rfl
  case active =>
    exact exec_answeredOnly (r := .refuse .planActive) rfl h (by simp [Frame.isKind, hkind, ReqKind.ofCode])
      (by rw [hp, setProbe_of_bytes]; exact if_pos hplan) rfl
  case set =>
    obtain ⟨s', hs', answer, settings, -, unchanged, ends⟩ := exec_taken (c := .setProbe t) (r := .okWith [])
      (bs := [.probes, .units]) rfl h (by simp [Frame.isKind, hkind, ReqKind.ofCode])
      (by rw [hp, setProbe_of_bytes]; exact if_neg (by simpa [State.popped] using hplan))
      (State.configureLines_touches _ _ _ _) (by decide) (by decide)
    have touched := State.configureLines_touches (BitVec.ofNat 16 (ofLeBytes [m0, m1])) (bitOf o 0) w.toNat
      ((s.advance t).popped rest)
    obtain ⟨now, blocks, -⟩ := touched
    have seq := blocks .seq (by simp)
    have flags := ends.flags_of_open now (blocks .flags (by simp)) (congrArg _ seq)
      (State.configureLines_isOpen _ _ _ ((s.advance t).popped rest)) (blocks .queue (by simp))
    refine ⟨s', hs', answer, settings, ends.sameNotices (blocks .tx (by simp)) (congrArg (·.plan.condition) seq.symm),
      unchanged.strike (b := .flags) flags, fun idle => ?_, fun n => ?_⟩
    · refine ends.units.trans (Vector.ext fun i hi => ?_)
      have none := State.configureLines_idle (BitVec.ofNat 16 (ofLeBytes [m0, m1])) (bitOf o 0) w.toNat
        (s := (s.advance t).popped rest) idle ⟨i, hi⟩
      exact none.trans (idle ⟨i, hi⟩).symm
    · rw [ends.probes, State.configureLines_line, lineMask_getLsbD, ProbeLine.configure_eq]
      have instant : s'.now = max s.now t := ends.now_eq now
      rw [instant]
      rfl
  case malformedRead =>
    exact exec_answeredOnly (r := .refuse .malformed) rfl h (by simp [Frame.isKind, hkind, ReqKind.ofCode])
      (noParameters_of_payload hlen _) rfl
  case read =>
    obtain ⟨l0, l1, k0, k1, reply, level, mark⟩ := readProbes_bytes ((s.advance t).popped rest)
    have body := (noParameters_of_nil hp _).trans reply
    obtain ⟨s', hs', answer, settings, notices, unchanged, ends⟩ := exec_answered_of_reaches (c := .readProbes t)
      (r := .okWith [l0, l1, k0, k1]) (bs := [.probes]) rfl h (by simp [Frame.isKind, hkind, ReqKind.ofCode])
      body ⟨rfl, fun b hb => by cases b <;> simp [sameBlock] at hb ⊢, rfl, rfl, rfl⟩ (by decide)
    exact ⟨s', l0, l1, k0, k1, hs', answer, settings, notices, unchanged, fun n =>
      ⟨level n, mark n, ends.probes ▸ getElem_ofFn_fin _ n⟩⟩

end Sys2Proof.Machine
end

section
/-! The receipt of an edge at a unit: what opens a window, what it folds, and what closes it (spec/03 R38 to R47). -/

namespace Sys2Proof.Machine

set_option Elab.async false

/-! ### The end of a happening -/

/-- A block stands from an instant on as it stands from the state before. -/
theorem sameBlock_of_advance {b : Block} {t : Nat} {s x : State} (h : sameBlock b (s.advance t) x) : sameBlock b s x := by
  cases b <;> exact h

/-- The end of a happening reaches the flag lines and TXD beside what the happening reached. -/
theorem State.finish_unchanged {bs : List Block} {s x : State} {t : Nat} (h : reaches bs (s.advance t) x) :
    unchangedBut (bs ++ [.flags, .tx]) s (x.finish (s.advance t)) := by
  obtain ⟨-, blocks, reset, pending, choices⟩ := h
  obtain ⟨-, nResetLow, probes, profiles, steps, units, seq, queue, rx, interp, choices', pending'⟩ :=
    State.finish_frame (s.advance t) x
  refine ⟨fun b hb => ?_, nResetLow.trans reset, pending'.trans pending, choices'.trans choices⟩
  simp only [List.mem_append, List.mem_cons, List.not_mem_nil, or_false, not_or] at hb
  have same := sameBlock_of_advance (blocks b hb.1)
  cases b
  case probes => exact probes.trans same
  case profiles => exact profiles.trans same
  case steps => exact steps.trans same
  case units => exact units.trans same
  case seq => exact seq.trans same
  case queue => exact queue.trans same
  case flags => exact absurd rfl hb.2.1
  case rx => exact rx.trans same
  case interp => exact interp.trans same
  case tx => exact absurd rfl hb.2.2

/-- The lines note what has changed of their targets since a happening began (spec/07 R126). -/
theorem State.finish_linesNoted {s x : State} {t : Nat} (hnow : x.now = (s.advance t).now) :
    linesNoted { s with now := (x.finish (s.advance t)).now } (x.finish (s.advance t)) fun n => x.flags[n] := by
  have instant : (x.finish (s.advance t)).now = max s.now t := (State.finish_frame (s.advance t) x).1.trans hnow
  rw [instant]
  exact State.finish_lines x (s.advance t)

/-! ### One unit -/

/-- A unit that has received an edge is as it was but for the edge. -/
theorem Receives.left_eq {s : State} {u : Fin 8} {b left : Bound} {e : ProbeEdge} (h : Receives s u b e left) :
    left = { b with inbox := left.inbox } := by
  obtain ⟨older, later, -, -, rfl⟩ := h.waits
  rfl

/-- A unit that has received an edge keeps its phase, its lane and its profile. -/
theorem Receives.left_frame {s : State} {u : Fin 8} {b left : Bound} {e : ProbeEdge} (h : Receives s u b e left) :
    left.phase = b.phase ∧ left.lane = b.lane ∧ left.profile = b.profile := by
  obtain ⟨older, later, -, -, rfl⟩ := h.waits
  exact ⟨rfl, rfl, rfl⟩

/-- A unit that moves on reaches the units alone. -/
theorem State.setUnit_reaches (u : Fin 8) (c : Bound) (s : State) : reaches [.units] s (s.setUnit u c) :=
  ⟨rfl, fun b hb => by cases b <;> first | rfl | simp at hb, rfl, rfl, rfl⟩

/-- Unit `u` stands as it is set. -/
theorem State.setUnit_unit (u : Fin 8) (c : Bound) (s : State) : (s.setUnit u c).units[u] = some c := by
  rw [State.setUnit, getElem_set_fin, if_pos rfl]

/-- No other unit is reached. -/
theorem State.setUnit_other {u v : Fin 8} (c : Bound) (s : State) (h : v ≠ u) : (s.setUnit u c).units[v] = s.units[v] := by
  rw [State.setUnit, getElem_set_fin, if_neg h]

section
variable {s : State} {u : Fin 8} {b left : Bound} {e : ProbeEdge}

/-- The effect of an edge by which the unit moves on to `c` without a close (spec/03 R38 to R45). -/
theorem exec_unitChanged {c : Bound} (h : Receives s u b e left) (t : Nat)
    (hc : (s.advance t).receive u e left = (s.advance t).setUnit u c) :
    ∃ s', exec (.edgeReceipt t u e.line e.kind) s = .next s' ∧ unitChanged u c s s' := by
  refine ⟨_, (execEdgeReceipt_of_receives h t).trans (by rw [hc]), ?_, fun v hv => ?_,
    State.finish_unchanged (State.setUnit_reaches u c _), State.finish_linesNoted rfl⟩
  · rw [(State.finish_frame _ _).2.2.2.2.2.1]
    exact State.setUnit_unit ..
  · rw [(State.finish_frame _ _).2.2.2.2.2.1]
    exact State.setUnit_other c _ hv

/-- Nothing happens at a unit but the receipt. -/
theorem State.receive_of_nothing (h : b.edgeEffect s.levelOf e = .nothing) : s.receive u e b = s.setUnit u b := by
  rw [State.receive, h]
  rfl

/-- A window opens (spec/03 R38). -/
theorem State.receive_of_opens (h : b.edgeEffect s.levelOf e = .opens) :
    s.receive u e b = s.setUnit u (b.openWindow s.now) := by
  rw [State.receive, h]
  rfl

/-- A window closes on its stop edge (spec/03 R39). -/
theorem State.receive_of_closes (h : b.edgeEffect s.levelOf e = .closes) :
    s.receive u e b = (s.setUnit u b).closeUnit .stop u := by
  rw [State.receive, h]
  rfl

/-- A sample that brings no close (spec/03 R45). -/
theorem State.receive_of_sample {c : Bound} (h : b.edgeEffect s.levelOf e = .samples)
    (hc : b.takeSample (b.sampleOf s.levelOf) = c) (hclose : c.countClose = none) :
    s.receive u e b = s.setUnit u c := by
  subst hc
  rw [State.receive, h]
  dsimp only
  rw [hclose]
  rfl

/-- A sample whose count closes the window (spec/03 R45). -/
theorem State.receive_of_last_sample {c : Bound} {reason : CloseReason} (h : b.edgeEffect s.levelOf e = .samples)
    (hc : b.takeSample (b.sampleOf s.levelOf) = c) (hclose : c.countClose = some reason) :
    s.receive u e b = (s.setUnit u c).closeUnit reason u := by
  subst hc
  rw [State.receive, h]
  dsimp only
  rw [hclose]
  rfl

/-- The input of a lane of a probe mode. -/
theorem probeInput_of_mode {l : Lane} {p : ProbeInput} (h : l.mode = .serial p ∨ l.mode = .parallel p) :
    probeInput l = some p := by
  obtain h | h := h <;> rw [probeInput, h]

/-- A unit of a lane of a probe mode samples the levels of its data lines (spec/03 R41, R42). -/
theorem Bound.sampleOf_of_mode {p : ProbeInput} (level : Fin 16 → Bool)
    (h : b.lane.mode = .serial p ∨ b.lane.mode = .parallel p) :
    b.sampleOf level = ((List.finRange 16).filter fun n => p.data.getLsbD n.val).map level := by
  rw [Bound.sampleOf, probeInput_of_mode h, ← sampleLevels_eq]

/-- Settles O20: the start edge opens, and every other edge does nothing at an ARMED unit. -/
theorem armedUnitOpensOnStartEdge : Obligations.ArmedUnitOpensOnStartEdge := by
  intro t s u b left e h harmed
  obtain ⟨phase, lane, profile⟩ := h.left_frame
  have effect := Bound.edgeEffect_of_armed (s.advance t).levelOf e left (phase.trans harmed)
  rw [lane] at effect
  split
  · next hstart =>
    rw [if_pos hstart] at effect
    obtain ⟨s', hs', hchanged⟩ := exec_unitChanged h t (State.receive_of_opens effect)
    have now : s'.now = max s.now t := exec_now hs'
    refine ⟨s', hs', ?_⟩
    rw [now, ← profile]
    exact hchanged
  · next hstart =>
    rw [if_neg hstart] at effect
    exact exec_unitChanged h t (State.receive_of_nothing effect)

/-- A transition is counted when the sample differs from a previous one (spec/03 R44). -/
theorem Bound.takeSample_transitions (b : Bound) (sample : List Bool) :
    (b.takeSample sample).transitions =
      if b.previous = none ∨ b.previous = some sample then b.transitions else min (2 ^ 32 - 2) (b.transitions + 1) := by
  cases hp : b.previous with
  | none => simp [Bound.takeSample, Bound.isTransition, hp]
  | some q => by_cases hq : q = sample <;> simp [Bound.takeSample, Bound.isTransition, hp, hq]

/-- A sample is folded in parallel, or its one bit in series (spec/03 R41, R42). -/
theorem Bound.foldSample_eq {p : ProbeInput} {sample : List Bool}
    (h : b.lane.mode = .parallel p ∨ (b.lane.mode = .serial p ∧ sample.length = 1)) :
    b.foldSample sample = if b.lane.mode = .parallel p then parallelFold b.profile b.residue sample
      else serialFold b.profile b.residue (sample.headD false) := by
  obtain h | ⟨h, hone⟩ := h
  · rw [if_pos h, Bound.foldSample, h]
  · obtain ⟨d, rfl⟩ := List.length_eq_one_iff.mp hone
    rw [if_neg (by rw [h]; exact LaneMode.noConfusion), Bound.foldSample, h]
    rfl

/-- Settles O21: a qualified clock edge that reaches no count is one sample, and any other edge but the stop edge is
nothing. -/
theorem openUnitFoldsQualifiedClockEdge : Obligations.OpenUnitFoldsQualifiedClockEdge := by
  intro t s u b left e p sample h hopen hmode hsample hstop
  obtain ⟨phase, lane, -⟩ := h.left_frame
  have mode : left.lane.mode = .serial p ∨ left.lane.mode = .parallel p := by
    rw [lane]
    exact hmode.elim .inr fun hm => .inl hm.1
  have effect := Bound.edgeEffect_of_open (s.advance t).levelOf e left p (phase.trans hopen)
    (probeInput_of_mode mode)
  rw [lane, if_neg hstop] at effect
  refine ⟨fun hqualified hcount hlimit => ?_, fun hnot => ?_⟩
  · rw [if_pos (by exact hqualified)] at effect
    have taken : left.takeSample (left.sampleOf (s.advance t).levelOf) = left.takeSample sample := by
      rw [Bound.sampleOf_of_mode _ mode, hsample]
      rfl
    have samples : (left.takeSample sample).samples = min (2 ^ 32 - 1) (b.samples + 1) := by
      rw [h.left_eq]
      rfl
    have open' : (left.takeSample sample).countClose = none := by
      refine Bound.countClose_of_not_reached _ fun hreached => ?_
      rw [Bound.reached, samples, show (left.takeSample sample).lane = b.lane from lane] at hreached
      exact hreached.elim hcount hlimit
    have fold := Bound.foldSample_eq hmode
    have transitions := b.takeSample_transitions sample
    have result := exec_unitChanged h t (State.receive_of_sample effect taken open')
    rw [← fold, ← transitions]
    rw [h.left_eq] at result ⊢
    exact result
  · rw [if_neg (by exact hnot)] at effect
    exact exec_unitChanged h t (State.receive_of_nothing effect)

/-- A unit that closes from `c` while another lane is without a report: its report is kept and nothing else of the step
changes (spec/03 R47, spec/05 R87). -/
theorem State.closeUnit_early {s : State} {u i : Fin 8} (c : Bound) (reason : CloseReason) (he : ClosesEarly s u i) :
    reaches [.units, .seq] s ((s.setUnit u c).closeUnit reason u) ∧
      closedEarly u i reason c s ((s.setUnit u c).closeUnit reason u) ∧
      ∀ v : Fin 8, v ≠ u → ((s.setUnit u c).closeUnit reason u).units[v] = s.units[v] := by
  have early : ClosesEarly (s.setUnit u c) u i := ⟨he.lane, he.other⟩
  have unit := State.setUnit_unit u c s
  have closed := State.closeUnit_closedEarly (reason := reason) unit early
  rw [State.closeUnit_of_early unit early] at closed ⊢
  refine ⟨⟨rfl, fun b hb => by cases b <;> first | rfl | simp at hb, rfl, rfl, rfl⟩, closed, fun v hv => ?_⟩
  exact (getElem_set_fin _ u v _).trans ((if_neg hv).trans (State.setUnit_other c s hv))

/-- An edge that closes the window at a unit while another lane is without a report (spec/03 R47, spec/05 R87). -/
theorem exec_closedEarly {c : Bound} {i : Fin 8} {reason : CloseReason} (h : Receives s u b e left) (t : Nat)
    (hc : (s.advance t).receive u e left = ((s.advance t).setUnit u c).closeUnit reason u) (he : ClosesEarly s u i) :
    ∃ s', exec (.edgeReceipt t u e.line e.kind) s = .next s' ∧ closedEarly u i reason c s s' ∧
      (∀ v : Fin 8, v ≠ u → s'.units[v] = s.units[v]) ∧ unchangedBut [.units, .seq, .flags, .tx] s s' ∧
      linesNoted { s with now := s'.now } s' fun m => s.flags[m] := by
  obtain ⟨reach, closed, others⟩ := State.closeUnit_early (s := s.advance t) c reason ⟨he.lane, he.other⟩
  have flags : _ = s.flags := reach.2.1 .flags (by simp)
  have noted := State.finish_linesNoted reach.1
  rw [flags] at noted
  refine ⟨_, (execEdgeReceipt_of_receives h t).trans (by rw [hc]), ?_, fun v hv => ?_, State.finish_unchanged reach, noted⟩
  · unfold closedEarly at closed ⊢
    rw [(State.finish_frame _ _).1, (State.finish_frame _ _).2.2.2.2.2.1, (State.finish_frame _ _).2.2.2.2.2.2.1]
    exact closed
  · rw [(State.finish_frame _ _).2.2.2.2.2.1]
    exact others v hv

/-- Settles O22: the stop edge closes without a sample, and a sample closes by the count it reaches, the stop count
first. -/
theorem stopsCloseWindow : Obligations.StopsCloseWindow := by
  refine ⟨fun t s u i b left e p h hopen hmode hstop he => ?edge, fun s b c sample hc => ⟨?samples, fun hcount => ?stop,
    fun hcount hlimit => ?limit, fun hcount hlimit => ?none,
    fun t u i left e p reason h hopen hmode hstop hclock hqualified hsample hclose he => ?sample⟩⟩
  case edge =>
    obtain ⟨phase, lane, -⟩ := h.left_frame
    have effect := Bound.edgeEffect_of_open (s.advance t).levelOf e left p (phase.trans hopen)
      (probeInput_of_mode (by rw [lane]; exact hmode))
    rw [lane, if_pos hstop] at effect
    exact exec_closedEarly h t (State.receive_of_closes effect) he
  case samples => rw [hc]; rfl
  case stop =>
    subst hc
    exact if_pos hcount
  case limit =>
    subst hc
    exact (if_neg hcount).trans (if_pos hlimit)
  case none =>
    subst hc
    exact (if_neg hcount).trans (if_neg hlimit)
  case sample =>
    obtain ⟨phase, lane, -⟩ := h.left_frame
    have mode : left.lane.mode = .serial p ∨ left.lane.mode = .parallel p := by rw [lane]; exact hmode
    have effect := Bound.edgeEffect_of_open (s.advance t).levelOf e left p (phase.trans hopen)
      (probeInput_of_mode mode)
    rw [lane, if_neg hstop, if_pos ⟨hclock, by exact hqualified⟩] at effect
    have taken : left.takeSample (left.sampleOf (s.advance t).levelOf) = { c with inbox := left.inbox } := by
      rw [Bound.sampleOf_of_mode _ mode, hc, hsample, h.left_eq]
      rfl
    exact exec_closedEarly h t (State.receive_of_last_sample effect taken hclose) he

end

end Sys2Proof.Machine
end

section
/-! MARK at the units it names: the windows it opens, and the closes that do not end the step (spec/03 R53, R54). -/

namespace Sys2Proof.Machine

set_option Elab.async false

/-! ### A taking that may raise RESULTS -/

/-- The interpreter stands, and so does the transmitter but for the RESULTS notice. -/
def State.onlyResults (s s' : State) : Prop :=
  s'.interp = s.interp ∧ s'.tx = { s.tx with results := s'.tx.results }

/-- An interpreter and a transmitter that stand leave all but RESULTS. -/
theorem State.onlyResults_of_same {s s' : State} (interp : s'.interp = s.interp) (tx : s'.tx = s.tx) :
    s.onlyResults s' := ⟨interp, by rw [tx]⟩

/-- What two changes leave, both leave. -/
theorem State.onlyResults.trans {a b c : State} (h1 : a.onlyResults b) (h2 : b.onlyResults c) : a.onlyResults c := by
  obtain ⟨i1, t1⟩ := h1
  obtain ⟨i2, t2⟩ := h2
  refine ⟨i2.trans i1, ?_⟩
  rw [t2, t1]

/-- A post raises RESULTS at most. -/
theorem State.askToPost_onlyResults (v : Verdict) (s : State) : s.onlyResults (s.askToPost v) := by
  rcases s.askToPost_cases v with ⟨-, h⟩ | ⟨-, h⟩ <;> rw [h]
  · refine State.onlyResults.trans (b := s.postRecords (s.seq.recordsOf v s.queue.next)) ?_
      (State.onlyResults_of_same (by simp) (by simp))
    unfold State.postRecords
    dsimp only
    split
    · unfold State.raiseResults
      split <;> exact ⟨rfl, rfl⟩
    · exact State.onlyResults_of_same rfl rfl
  · exact State.onlyResults_of_same rfl rfl

/-- A close raises RESULTS at most. -/
theorem State.closeUnit_onlyResults {s : State} (x : State) (r : CloseReason) (u : Fin 8) (hx : s.onlyResults x) :
    s.onlyResults (x.closeUnit r u) :=
  State.closeUnit_keeps (P := s.onlyResults) (fun _ _ _ _ h _ _ => h) (fun _ _ _ _ _ h _ _ => h)
    (fun y _ h _ _ => h.trans (State.askToPost_onlyResults y.seq.verdict { y with seq := _ })) x r u hx

/-- A taking whose rule raises RESULTS at most: the reply is given, and the settings stand (spec/09 R158). -/
theorem exec_taken_of_onlyResults {c : Instr} {s x : State} {f : Frame} {rest : List Frame} {row : Frame → Bool}
    {body : List Byte → State → State × Reply} {t : Nat} {r : Reply}
    (hexec : exec c s = .next ((s.advance t).takeRequest row body)) (h : Takes s f rest) (hrow : row f = true)
    (hbody : body f.payload ((s.advance t).popped rest) = (x, r)) (hx : ((s.advance t).popped rest).onlyResults x) :
    ∃ s', exec c s = .next s' ∧ answeredWith r.attached f rest r.payload s s' ∧ sameSettings s s' ∧
      TakingEnds f rest r.payload r.attached s x s' t := by
  obtain ⟨interp, tx⟩ := hx
  have ends := State.taking_ends h hrow hbody rfl (congrArg Interpreter.requests interp)
    (by rw [tx]; rfl) (by rw [tx]; rfl) (by rw [tx]; rfl)
  have after := ends.interp
  rw [interp] at after
  refine ⟨_, hexec, ⟨ends.requests, ?_, ends.given⟩, ⟨by rw [after]; rfl, by rw [after]; rfl⟩, ends⟩
  rw [after]
  exact writeCache_cacheWritten ..

/-! ### The named units -/

/-- Bit `u` of a unit mask says whether the unit is of the list. -/
theorem unitMask_getLsbD (us : List (Fin 8)) (u : Fin 8) : (unitMask us).getLsbD u.val = decide (u ∈ us) := by
  have place : allUnits[u.val]? = some u := by revert u; decide
  rw [unitMask, byteOf, BitVec.getLsbD_ofNat, decide_eq_true u.isLt, Bool.true_and, ofBits_testBit,
    List.getD_eq_getElem?_getD, List.getElem?_map, place]
  rfl

/-- The units that accept a MARK are those named whose windows accept it (spec/03 R54). -/
theorem State.mem_accepting {s : State} {mask : Byte} {accepts : Bound → Bool} {u : Fin 8} :
    u ∈ s.accepting mask accepts ↔ mask.getLsbD u.val = true ∧ ∃ b, s.units[u] = some b ∧ accepts b = true := by
  have every : u ∈ allUnits := by revert u; decide
  simp only [State.accepting, List.mem_filter, every, true_and, Bool.and_eq_true, bitOf, Option.any_eq_true]

/-- The units that accept a MARK come once each. -/
theorem State.accepting_nodup (s : State) (mask : Byte) (accepts : Bound → Bool) : (s.accepting mask accepts).Nodup :=
  List.Nodup.filter _ (by decide)

/-- A window accepts a MARK START when it is ARMED and starts by HOST (spec/03 R54). -/
theorem Bound.acceptsStart_iff {b : Bound} : b.acceptsStart = true ↔ b.phase = .armed ∧ b.lane.start = .host := by
  simp [Bound.acceptsStart]

/-- A window accepts a MARK STOP when it is OPEN and stops by HOST (spec/03 R54). -/
theorem Bound.acceptsStop_iff {b : Bound} : b.acceptsStop = true ↔ b.phase = .opened ∧ b.lane.stop = .host := by
  simp [Bound.acceptsStop]

/-- A MARK is refused exactly in IDLE and PAUSED (spec/03 R53). -/
theorem PlanState.refusesMark_iff {p : PlanState} : p.refusesMark = true ↔ p = .idle ∨ p = .paused := by
  simp [PlanState.refusesMark]

/-! ### MARK START -/

/-- MARK START with kind byte 0 (spec/03 R53, R54). -/
theorem markStart_of_start (m : Byte) (s : State) :
    markStart [m, 0] s =
      if s.seq.plan.refusesMark then (s, .refuse .planIdle)
      else
        ({ s with units := Vector.ofFn fun u =>
            if u ∈ s.accepting m Bound.acceptsStart then s.units[u].map (Bound.openWindow s.now) else s.units[u] },
          .okWith [unitMask (s.accepting m Bound.acceptsStart)]) := rfl

/-- A MARK START whose payload gives no kind is malformed (spec/10 10.3). -/
theorem markStart_of_no_kind {payload : List Byte} (h : markKind payload = none) (s : State) :
    markStart payload s = (s, .refuse .malformed) := by
  unfold markStart
  split
  · next hk =>
    rw [h] at hk
    cases hk
  · rfl

/-- A payload that is not of two bytes gives no kind. -/
theorem markKind_of_length {payload : List Byte} (h : payload.length ≠ 2) : markKind payload = none := by
  unfold markKind
  split
  · exact absurd rfl h
  · rfl

/-- A MARK that gives no kind is taken by the row of MARK START (notes/assumptions/8). -/
theorem Frame.isMarkStart_of_no_kind {f : Frame} (hkind : f.kind = 0x15) (h : markKind f.payload = none) :
    f.isMarkStart = true := by
  simp [Frame.isMarkStart, Frame.isKind, hkind, ReqKind.ofCode, h]

/-- A MARK of kind START is taken by its row. -/
theorem Frame.isMarkStart_of_start {f : Frame} {m : Byte} (hkind : f.kind = 0x15) (h : f.payload = [m, 0]) :
    f.isMarkStart = true := by
  simp [Frame.isMarkStart, Frame.isKind, hkind, ReqKind.ofCode, h, markKind]

/-- Settles O23: the units that accept the MARK open, and no other. -/
theorem markStartOpensHostWindows : Obligations.MarkStartOpensHostWindows := by
  intro t s f rest h hkind
  have malformed (hnone : markKind f.payload = none) :
      ∃ s', exec (.markStart t) s = .next s' ∧ answeredOnly f rest [2, 0] s s' :=
    exec_answeredOnly (r := .refuse .malformed) rfl h (Frame.isMarkStart_of_no_kind hkind hnone)
      (markStart_of_no_kind hnone _) rfl
  refine ⟨fun m k hp hk => malformed ?_, fun hlen => malformed (markKind_of_length hlen),
    fun m hp => ⟨fun hplan => ?idle, fun hidle hpaused => ?marked⟩⟩
  · rw [hp]
    exact if_neg (by omega)
  all_goals have hrow := Frame.isMarkStart_of_start hkind hp
  case idle =>
    exact exec_answeredOnly (r := .refuse .planIdle) rfl h hrow
      (by rw [hp, markStart_of_start]; exact if_pos (PlanState.refusesMark_iff.mpr hplan)) rfl
  case marked =>
    have goes : ¬(((s.advance t).popped rest).seq.plan.refusesMark = true) := fun hr =>
      (PlanState.refusesMark_iff.mp hr).elim hidle hpaused
    have body := (congrArg (markStart · ((s.advance t).popped rest)) hp).trans
      ((markStart_of_start m _).trans (if_neg goes))
    obtain ⟨s', hs', answer, settings, -, unchanged, ends⟩ := exec_taken (c := .markStart t) (bs := [.units]) rfl h hrow
      body ⟨rfl, fun b hb => by cases b <;> first | rfl | simp at hb, rfl, rfl, rfl⟩ (by decide) (by decide)
    have now : s'.now = max s.now t := exec_now hs'
    refine ⟨s', _, hs', answer, settings, ends.sameNotices rfl rfl, unchanged, ends.linesNoted rfl, fun u => ?_⟩
    rw [unitMask_getLsbD, decide_eq_true_iff, decide_eq_false_iff_not, ends.units, getElem_ofFn_fin]
    refine ⟨?_, fun hout => if_neg hout, fun hin b hb => ?_⟩
    · simp only [State.mem_accepting, Bound.acceptsStart_iff]
      rfl
    · rw [now]
      refine (if_pos hin).trans ?_
      rw [show ((s.advance t).popped rest).units[u] = some b from hb]
      rfl

/-! ### MARK STOP -/

/-- Units of a list have closed with a reason, and the step goes on: the report of each stands at its lane's position. -/
structure State.ClosesAmong (reason : CloseReason) (us : List (Fin 8)) (s x : State) : Prop where
  reach : reaches [.units, .seq] s x
  seq : { x.seq with reports := s.seq.reports } = s.seq
  units : ∀ u : Fin 8, x.units[u] = if u ∈ us then (s.units[u]).map (closedAs s.now reason) else s.units[u]
  others : ∀ i : Fin 8, (∀ u ∈ us, s.seq.laneOf u ≠ some i.val) → x.seq.reports[i] = s.seq.reports[i]
  reports : ∀ u ∈ us, ∀ b, s.units[u] = some b → ∀ i : Fin 8, s.seq.laneOf u = some i.val →
    x.seq.reports[i] = some (reportOf s.now u reason b)

/-- Where a lane is named depends on the step copy alone. -/
theorem Sequencer.laneOf_of_seq {a b : Sequencer} (h : { a with reports := b.reports } = b) (u : Fin 8) :
    a.laneOf u = b.laneOf u := by
  have copy : a.stepCopy = b.stepCopy := (congrArg Sequencer.stepCopy h :)
  rw [Sequencer.laneOf, copy, Sequencer.laneOf]

/-- Two units are not named by one lane. -/
theorem Sequencer.laneOf_unique {q : Sequencer} {r : StepRecord} {u v : Fin 8} {i : Nat} (hr : q.stepCopy = some r)
    (hu : q.laneOf u = some i) (hv : q.laneOf v = some i) : u = v := by
  obtain ⟨l, hl, rfl⟩ := Sequencer.laneOf_eq_some hr hu
  obtain ⟨l', hl', rfl⟩ := Sequencer.laneOf_eq_some hr hv
  rw [hl] at hl'
  rw [Option.some.inj hl']

/-- One unit closes while the lane of another is without a report (spec/03 R47, spec/05 R87). -/
theorem State.closeUnit_closesAmong {s : State} {r : StepRecord} {j u : Fin 8} {l : Lane} {b : Bound}
    (reason : CloseReason) (hr : s.seq.stepCopy = some r) (hl : r.lanes[j.val]? = some l)
    (hj : s.seq.reports[j] = none) (hne : l.unit ≠ u) (hu : s.units[u] = some b) :
    s.ClosesAmong reason [u] (s.closeUnit reason u) := by
  have one (v : Fin 8) : (s.units.set u (some (b.close s.now reason)))[v] =
      if v ∈ [u] then (s.units[v]).map (closedAs s.now reason) else s.units[v] := by
    rw [getElem_set_fin]
    by_cases hv : v = u
    · rw [if_pos hv, if_pos (List.mem_singleton.mpr hv), hv, hu, Bound.close_eq]
      rfl
    · rw [if_neg hv, if_neg fun h => hv (List.mem_singleton.mp h)]
  rcases s.closeUnit_cases reason u with ⟨hnone, -⟩ | ⟨b', hb', ⟨h, hlane⟩ | ⟨i, hlane, ⟨-, h⟩ | ⟨hall, -⟩⟩⟩
  · rw [hnone] at hu
    cases hu
  · cases hb'.symm.trans hu
    rw [h]
    refine ⟨⟨rfl, fun b hb => by cases b <;> first | rfl | simp at hb, rfl, rfl, rfl⟩, rfl, one, fun _ _ => rfl,
      fun v hv c hc i hi => ?_⟩
    rw [List.mem_singleton.mp hv] at hi
    exact absurd hi (hlane i)
  · cases hb'.symm.trans hu
    rw [h]
    refine ⟨⟨rfl, fun b hb => by cases b <;> first | rfl | simp at hb, rfl, rfl, rfl⟩, rfl, one, fun k hk => ?_,
      fun v hv c hc k hk => ?_⟩
    · have hki : k ≠ i := fun e => hk u (List.mem_singleton.mpr rfl) (e ▸ hlane)
      rw [State.withReport, getElem_set_fin, if_neg hki]
    · rw [List.mem_singleton.mp hv] at hc hk ⊢
      cases hc.symm.trans hu
      have hki : k = i := Fin.ext (Option.some.inj (hk.symm.trans hlane))
      rw [State.withReport, getElem_set_fin, if_pos hki, Bound.report_eq]
  · obtain ⟨l', hl', hlu⟩ := Sequencer.laneOf_eq_some hr hlane
    have hji : j ≠ i := fun e => hne (by
      rw [← e, hl] at hl'
      rw [Option.some.inj hl', hlu])
    have missing : (s.withReport reason u b' i).seq.allReported = false := by
      refine Sequencer.allReported_of_missing (q := (s.withReport reason u b' i).seq) hr hl ?_
      rw [State.withReport, getElem_set_fin, if_neg hji]
      exact hj
    rw [missing] at hall
    cases hall

/-- Units that close one after another while the lane of another is without a report (spec/03 R54, spec/05 R87). -/
theorem State.closeAll_closesAmong {s : State} {r : StepRecord} {j : Fin 8} {l : Lane} (reason : CloseReason)
    (us : List (Fin 8)) (hus : us.Nodup) (hb : ∀ u ∈ us, s.units[u] ≠ none) (hr : s.seq.stepCopy = some r)
    (hl : r.lanes[j.val]? = some l) (hj : s.seq.reports[j] = none) (hne : l.unit ∉ us) :
    s.ClosesAmong reason us (us.foldl (fun x u => x.closeUnit reason u) s) := by
  induction us generalizing s with
  | nil =>
    exact ⟨reaches_refl _ s, rfl, fun u => (if_neg List.not_mem_nil).symm, fun _ _ => rfl,
      fun u hu => absurd hu List.not_mem_nil⟩
  | cons u us ih =>
    obtain ⟨fresh, nodup⟩ := List.nodup_cons.mp hus
    obtain ⟨b, hub⟩ := Option.ne_none_iff_exists'.mp (hb u List.mem_cons_self)
    have first := State.closeUnit_closesAmong reason hr hl hj (fun e => hne (e ▸ List.mem_cons_self)) hub
    have lanes := Sequencer.laneOf_of_seq first.seq
    have notU {i : Fin 8} (hi : s.seq.laneOf l.unit = some i.val ∨ i = j) : s.seq.laneOf u ≠ some i.val := by
      intro hui
      obtain ⟨l', hl', hlu⟩ := Sequencer.laneOf_eq_some hr hui
      obtain hi | rfl := hi
      · exact hne (Sequencer.laneOf_unique hr hi hui ▸ List.mem_cons_self)
      · rw [hl] at hl'
        exact hne (by rw [Option.some.inj hl', hlu]; exact List.mem_cons_self)
    have copy : (s.closeUnit reason u).seq.stepCopy = some r := (congrArg Sequencer.stepCopy first.seq).trans hr
    have rest := ih nodup (s := s.closeUnit reason u) (fun v hv => by
        rw [first.units v, if_neg fun h => fresh (by rw [← List.mem_singleton.mp h]; exact hv)]
        exact hb v (List.mem_cons_of_mem _ hv)) copy
      ((first.others j fun v hv => by rw [List.mem_singleton.mp hv]; exact notU (.inr rfl)).trans hj)
      fun h => hne (List.mem_cons_of_mem _ h)
    refine ⟨first.reach.trans rest.reach, ?_, fun v => ?_, fun i hi => ?_, fun v hv c hc i hi => ?_⟩
    · exact (congrArg (fun q : Sequencer => { q with reports := s.seq.reports }) rest.seq).trans first.seq
    · rw [List.foldl_cons, rest.units v, first.units v, first.reach.1]
      by_cases hvu : v = u
      · subst hvu
        simp [fresh]
      · simp [hvu]
    · rw [List.foldl_cons, rest.others i fun v hv => by
        rw [lanes]
        exact hi v (List.mem_cons_of_mem _ hv)]
      exact first.others i fun v hv => by
        rw [List.mem_singleton.mp hv]
        exact hi u List.mem_cons_self
    · rw [List.foldl_cons]
      obtain rfl | hin := List.mem_cons.mp hv
      · have kept := rest.others i fun w hw => by
          rw [lanes]
          exact fun hwi => fresh (Sequencer.laneOf_unique hr hi hwi ▸ hw)
        exact kept.trans (first.reports v (List.mem_singleton.mpr rfl) c hc i hi)
      · have hvu : v ∉ [u] := fun h => fresh (List.mem_singleton.mp h ▸ hin)
        rw [rest.reports v hin c (by rw [first.units v, if_neg hvu]; exact hc) i (by rw [lanes]; exact hi), first.reach.1]

/-- MARK STOP with kind byte 1 (spec/03 R53, R54). -/
theorem markStop_of_stop (m : Byte) (s : State) :
    markStop [m, 1] s =
      if s.seq.plan.refusesMark then (s, .refuse .planIdle)
      else ((s.accepting m Bound.acceptsStop).foldl (fun x u => x.closeUnit .stop u) s,
        .okWith [unitMask (s.accepting m Bound.acceptsStop)]) := rfl

/-- Settles O24: the units that accept the MARK close one after another, none of which ends the step. -/
theorem markStopClosesHostWindows : Obligations.MarkStopClosesHostWindows := by
  intro t s f rest m h hkind hp
  have hrow : f.isMarkStop = true := by
    simp [Frame.isMarkStop, Frame.isKind, hkind, ReqKind.ofCode, hp, markKind]
  refine ⟨fun hplan => ?idle, fun hidle hpaused => ?marked⟩
  case idle =>
    exact exec_answeredOnly (r := .refuse .planIdle) rfl h hrow
      (by rw [hp, markStop_of_stop]; exact if_pos (PlanState.refusesMark_iff.mpr hplan)) rfl
  case marked =>
    have goes : ¬(((s.advance t).popped rest).seq.plan.refusesMark = true) := fun hr =>
      (PlanState.refusesMark_iff.mp hr).elim hidle hpaused
    have body := (congrArg (markStop · ((s.advance t).popped rest)) hp).trans
      ((markStop_of_stop m _).trans (if_neg goes))
    obtain ⟨s', hs', answer, settings, ends⟩ := exec_taken_of_onlyResults (c := .markStop t) rfl h hrow body
      (State.closeAll_keeps State.closeUnit_onlyResults .stop _ (State.onlyResults_of_same rfl rfl))
    have now : s'.now = max s.now t := exec_now hs'
    refine ⟨s', _, hs', answer, settings, fun u => ?_, fun r j l hr hl hj hout => ?_⟩
    · rw [unitMask_getLsbD, decide_eq_true_iff]
      simp only [State.mem_accepting, Bound.acceptsStop_iff]
      rfl
    · rw [unitMask_getLsbD, decide_eq_false_iff_not] at hout
      have closed := State.closeAll_closesAmong (s := (s.advance t).popped rest) .stop _
        (State.accepting_nodup _ m Bound.acceptsStop) (fun u hu => by
          obtain ⟨-, b, hb, -⟩ := State.mem_accepting.mp hu
          rw [hb]
          exact Option.some_ne_none b) hr hl hj hout
      obtain ⟨s'', hs'', -, -, -, unchanged, ends⟩ := exec_taken (c := .markStop t) rfl h hrow body closed.reach
        (by decide) (by decide)
      cases hs'.symm.trans hs''
      obtain ⟨instant, blocks, -⟩ := closed.reach
      have plan : _ = s.seq.plan := congrArg Sequencer.plan closed.seq
      have flags := blocks .flags (by simp)
      have noted := ends.linesNoted instant
      rw [show _ = s.flags from flags] at noted
      have mask {u : Fin 8} : (unitMask _).getLsbD u.val = true ↔ u ∈ _ :=
        (unitMask_getLsbD (((s.advance t).popped rest).accepting m Bound.acceptsStop) u) ▸ decide_eq_true_iff
      refine ⟨unchanged, ends.sameNotices (blocks .tx (by simp)) (congrArg PlanState.condition plan.symm), noted,
        ?_, ?_, fun i hi => ?_, fun u => ⟨fun hno => ?_, fun hin b hb => ⟨?_, fun i hi => ?_⟩⟩⟩
      · rw [ends.seq]
        refine (closed.others j fun u hu hlane => hout ?_).trans hj
        obtain ⟨l', hl', rfl⟩ := Sequencer.laneOf_eq_some hr hlane
        cases hl.symm.trans hl'
        exact hu
      · rw [ends.seq]
        exact closed.seq
      · rw [ends.seq]
        exact closed.others i fun u hu => hi u (mask.mpr hu)
      · rw [ends.units, closed.units u, if_neg fun hu => Bool.eq_false_iff.mp hno (mask.mpr hu)]
        rfl
      · rw [ends.units, closed.units u, if_pos (mask.mp hin), now]
        rw [show ((s.advance t).popped rest).units[u] = some b from hb]
        rfl
      · rw [ends.seq, now]
        exact closed.reports u (mask.mp hin) b hb i hi

end Sys2Proof.Machine
end

section
/-! FEED: its checks in order, the bits it folds, and the closes that do not end the step (spec/03 R55 to R57). -/

namespace Sys2Proof.Machine

set_option Elab.async false

/-- Eight bits come from each byte (spec/01 R9). -/
theorem bitsOf_length (o : ByteOrder) (bytes : List Byte) : (bitsOf o bytes).length = 8 * bytes.length := by
  induction bytes with
  | nil => rfl
  | cons b bytes ih =>
    rw [bitsOf, List.flatMap_cons, List.length_append, ← bitsOf, ih]
    simp
    omega

/-- Samples leave the phase of a unit. -/
theorem sampledBits_phase (bits : List Bool) (b : Bound) : (bits.foldl sampledBit b).phase = b.phase := by
  induction bits generalizing b with
  | nil => rfl
  | cons d ds ih => exact ih (sampledBit b d)

/-- A unit takes the bytes of a FEED when it is OPEN and of a HOST lane (spec/03 R55). -/
theorem Bound.takesBytes_iff {b : Bound} : b.takesBytes = true ↔ b.phase = .opened ∧ b.lane.mode = .host := by
  simp [Bound.takesBytes]

/-! ### The checks -/

/-- A FEED without unit and options, or with more than 232 bytes, is malformed (spec/03 R55). -/
theorem feed_of_length {payload : List Byte} (h : payload.length < 2 ∨ 234 < payload.length) (s : State) :
    feed payload s = (s, .refuse .malformed) := by
  unfold feed
  split
  · exact if_pos (by simp at h; omega)
  · rfl

/-- A FEED of a unit above 7 (spec/03 R55). -/
theorem feed_of_range {n : Byte} {bytes : List Byte} (o : Byte) (hlen : bytes.length ≤ 232) (hn : 8 ≤ n.toNat)
    (s : State) : feed (n :: o :: bytes) s = (s, feedRefusal .range 0) :=
  (if_neg (by omega)).trans (dif_neg (by omega))

/-- A FEED of a unit in its range (spec/03 R55). -/
theorem feed_of_unit {n : Byte} {u : Fin 8} {bytes : List Byte} (o : Byte) (hlen : bytes.length ≤ 232)
    (s : State) : n.toNat = u.val → feed (n :: o :: bytes) s =
      if s.seq.plan ≠ .capturing then (s, feedRefusal .laneState (unitCode s.units[u]))
      else
        match s.units[u] with
        | none => (s, feedRefusal .laneState 0)
        | some b =>
          if b.takesBytes then feedUnit u (bitOf o 0) bytes b s else (s, feedRefusal .laneState (unitCode (some b))) := by
  intro hn
  obtain ⟨u, hu⟩ := u
  subst hn
  exact (if_neg (by omega)).trans (dif_pos hu)

/-- A FEED of a unit that takes no bytes answers with its state (spec/03 R55). -/
theorem feed_of_lane_state {n : Byte} {u : Fin 8} {bytes : List Byte} (o : Byte) (hlen : bytes.length ≤ 232)
    (hn : n.toNat = u.val) {s : State}
    (h : s.seq.plan ≠ .capturing ∨ s.units[u] = none ∨
      ∃ b, s.units[u] = some b ∧ (b.phase ≠ .opened ∨ b.lane.mode ≠ .host)) :
    feed (n :: o :: bytes) s = (s, feedRefusal .laneState (unitCode s.units[u])) := by
  rw [feed_of_unit o hlen s hn]
  split
  · rfl
  · next hplan =>
    obtain hplan' | hnone | ⟨b, hb, hno⟩ := h
    · exact absurd hplan' hplan
    · rw [hnone]
      rfl
    · rw [hb]
      refine if_neg fun htakes => ?_
      obtain ⟨hopen, hhost⟩ := Bound.takesBytes_iff.mp htakes
      exact hno.elim (absurd hopen) (absurd hhost)

/-- A FEED of an OPEN unit of a HOST lane is folded (spec/03 R55, R56). -/
theorem feed_of_open {n : Byte} {u : Fin 8} {bytes : List Byte} {b : Bound} (o : Byte) (hlen : bytes.length ≤ 232)
    (hn : n.toNat = u.val) {s : State} (hplan : s.seq.plan = .capturing) (hb : s.units[u] = some b)
    (hopen : b.phase = .opened) (hhost : b.lane.mode = .host) :
    feed (n :: o :: bytes) s = feedUnit u (o.getLsbD 0) bytes b s := by
  rw [feed_of_unit o hlen s hn, if_neg fun h => h hplan, hb]
  exact if_pos (Bound.takesBytes_iff.mpr ⟨hopen, hhost⟩)

/-! ### The bytes -/

section
variable {u : Fin 8} {bytes : List Byte} {b c : Bound} {s : State} {final : Bool}

/-- Bytes that close nothing leave the window OPEN (spec/03 R56). -/
theorem feedUnit_of_open (hhost : b.lane.mode = .host) (hopen : b.phase = .opened)
    (h : ∀ m, 1 ≤ m → m ≤ (bitsOf b.profile.byteOrder bytes).length →
      ¬(((bitsOf b.profile.byteOrder bytes).take m).foldl sampledBit b).reached) :
    feedUnit u false bytes b s =
      (s.setUnit u ((bitsOf b.profile.byteOrder bytes).foldl sampledBit b),
        .okWith [BitVec.ofNat 8 bytes.length, 2]) := by
  have phase := sampledBits_phase (bitsOf b.profile.byteOrder bytes) b
  have code : byteOf (unitCode (some ((bitsOf b.profile.byteOrder bytes).foldl sampledBit b))) = 2 := by
    rw [unitCode, phase, hopen]
    rfl
  rw [feedUnit, feedOrder_eq, Bound.feedBits_of_open _ b hhost h]
  dsimp only
  rw [if_neg Bool.false_ne_true, code, bitsOf_length, Nat.mul_div_cancel_left _ (by omega)]
  rfl

/-- Bytes that close the window: it closes after the bit that brings the close (spec/03 R56, R57). -/
theorem feedUnit_of_closes {k : Nat} {reason : CloseReason} (hhost : b.lane.mode = .host)
    (h : FeedCloses b (bitsOf b.profile.byteOrder bytes) final k c reason) :
    feedUnit u final bytes b s = ((s.setUnit u c).closeUnit reason u, .okWith [BitVec.ofNat 8 (k / 8), 3]) := by
  obtain ⟨o, hbits, hclose⟩ := Bound.feedBits_of_closes hhost h
  rw [feedUnit, feedOrder_eq, hbits]
  dsimp only
  rw [hclose]
  rfl

end

/-- Settles O25: the checks in order, and the bits up to the one that closes the window. -/
theorem feedFoldsBytes : Obligations.FeedFoldsBytes := by
  refine ⟨fun t s f rest h hkind => ⟨fun hlen => ?malformed, fun n o bytes hp hlen => ⟨fun hn => ?range,
    fun u hn hstate => ?state⟩⟩, fun t s f rest u n o bytes b bits h hkind hp hlen hn hplan hb hopen hhost hbits =>
    ⟨?residue, fun hreach hfinal => ?stays, fun k c reason i hcloses he => ?closes⟩⟩
  case malformed =>
    exact exec_answeredOnly (r := .refuse .malformed) rfl h (by simp [Frame.isKind, hkind, ReqKind.ofCode])
      (feed_of_length hlen _) rfl
  case range =>
    exact exec_answeredOnly (r := feedRefusal .range 0) rfl h (by simp [Frame.isKind, hkind, ReqKind.ofCode])
      (hp ▸ feed_of_range o hlen hn _) rfl
  case state =>
    have reply := exec_answeredOnly (c := .feed t) (r := feedRefusal .laneState (unitCode s.units[u])) rfl h
      (by simp [Frame.isKind, hkind, ReqKind.ofCode])
      (hp ▸ feed_of_lane_state (s := (s.advance t).popped rest) o hlen hn hstate) rfl
    cases hu : s.units[u] with
    | none =>
      rw [hu] at reply
      exact reply
    | some b =>
      rw [hu, unitCode] at reply
      cases hphase : b.phase <;> (
        rw [hphase] at reply
        simp only [hphase]
        exact reply)
  all_goals subst hbits
  case residue => exact sampledBits_residue bytes b
  case stays =>
    have body := (congrArg (feed · ((s.advance t).popped rest)) hp).trans
      ((feed_of_open (s := (s.advance t).popped rest) o hlen hn hplan hb hopen hhost).trans
        (hfinal ▸ feedUnit_of_open hhost hopen hreach))
    obtain ⟨s', hs', answer, settings, -, unchanged, ends⟩ := exec_taken (c := .feed t) rfl h
      (by simp [Frame.isKind, hkind, ReqKind.ofCode]) body (State.setUnit_reaches u _ _) (by decide) (by decide)
    have flags := ends.flags_of_open rfl rfl rfl (fun v => by
      rw [State.isOpen, State.setUnit, getElem_set_fin]
      split
      · next hv =>
        subst hv
        rw [State.isOpen, hb]
        exact congrArg (fun p => decide (p = Phase.opened)) (sampledBits_phase _ b)
      · rfl) rfl
    refine ⟨s', hs', answer, settings, ends.sameNotices rfl rfl, ?_, fun v hv => ?_, unchanged.strike (b := .flags) flags⟩
    · rw [ends.units]
      exact State.setUnit_unit ..
    · rw [ends.units]
      exact State.setUnit_other _ _ hv
  case closes =>
    have body := (congrArg (feed · ((s.advance t).popped rest)) hp).trans
      ((feed_of_open (s := (s.advance t).popped rest) o hlen hn hplan hb hopen hhost).trans
        (feedUnit_of_closes hhost hcloses))
    obtain ⟨reach, closed, others⟩ := State.closeUnit_early (s := (s.advance t).popped rest) c reason ⟨he.lane, he.other⟩
    obtain ⟨s', hs', answer, settings, -, unchanged, ends⟩ := exec_taken (c := .feed t) rfl h
      (by simp [Frame.isKind, hkind, ReqKind.ofCode]) body reach (by decide) (by decide)
    have noted := ends.linesNoted reach.1
    rw [show _ = s.flags from reach.2.1 .flags (by simp)] at noted
    have now : s'.now = max s.now t := exec_now hs'
    obtain ⟨unit, seq⟩ := closed
    rw [reach.1] at unit seq
    refine ⟨s', hs', answer, settings, ends.sameNotices (reach.2.1 .tx (by simp)) ?_, ⟨?_, ?_⟩, fun v hv => ?_, unchanged,
      noted⟩
    · rw [seq]
      rfl
    · rw [ends.units, now]
      exact unit
    · rw [ends.seq, now]
      exact seq
    · rw [ends.units]
      exact others v hv

end Sys2Proof.Machine
end

section
/-! The requests that start, pause, resume and end a run (spec/05 R82, R98 to R100, R106). -/

namespace Sys2Proof.Machine

set_option Elab.async false

/-! ### A step started by a request -/

/-- The plan condition while a step is under way (spec/05 R80). -/
theorem StepBegins.condition {r : StepRecord} {x y : State} (h : StepBegins r x y) :
    y.seq.plan.condition = .running := by
  have goes := h.goes
  split at goes
  · rw [goes.1]
    rfl
  · rw [goes.1]
    rfl

/-- What the lines have noted depends on the lines alone. -/
theorem linesNoted.congr {b s : State} {g k : Fin 4 → FlagLine} (h : linesNoted b s g) (hgk : ∀ n, g n = k n) :
    linesNoted b s k := funext hgk ▸ h

section
variable {f : Frame} {rest : List Frame} {p : List Byte} {a : Attached} {s x y s' : State} {t : Nat}

/-- A taking whose rule starts a step from a state with the part's blocks of before leaves the step started (spec/05
R84, R85). -/
theorem stepStarted_of_begins {r : StepRecord} (h : StepBegins r x y) (ends : TakingEnds f rest p a s y s' t)
    (hnow : x.now = max s.now t) (hprofiles : x.profiles = s.profiles) (hunits : x.units = s.units)
    (htimer : x.seq.stepTimerAt = s.seq.stepTimerAt) (hflags : x.flags = s.flags) :
    stepStarted r x.runClock s s' := by
  have now : s'.now = y.now := ends.now
  have lines := ends.linesNoted (h.now.trans hnow)
  have goes := h.goes
  unfold stepStarted capturing
  unfold capturing at goes
  rw [ends.seq, ends.units, now]
  rw [now] at lines
  refine ⟨h.copy, h.reports, h.stepStart, lines.congr fun n => by rw [h.lines n, hflags], ?_⟩
  · split
    · next settle =>
      rw [if_pos settle] at goes
      obtain ⟨plan, settleEnd, timer, units⟩ := goes
      exact ⟨plan, settleEnd, timer.trans htimer, units.trans hunits⟩
    · next settle =>
      rw [if_neg settle] at goes
      obtain ⟨plan, settleEnd, timer, named, others⟩ := goes
      refine ⟨plan, settleEnd, timer, fun l hl q hq => named l hl q ?_, fun u hu => (others u hu).trans (by rw [hunits])⟩
      rw [State.profileAt_congr hprofiles]
      exact hq

/-- What a rule reaches, told of the state it answers. -/
theorem reaches_of_rule {bs : List Block} {body : List Byte → State → State × Reply} {r : Reply}
    (h : ruleTouches bs body) (hbody : body p x = (y, r)) : reaches bs x y := by
  have reach := h p x
  rw [hbody] at reach
  exact reach

end

/-- Blocks of a plan request, in the order of the statements. -/
theorem unchangedBut_planBlocks {s s' : State}
    (h : unchangedBut ([.seq, .units, .flags] ++ [.flags, .interp, .tx]) s s') :
    unchangedBut [.seq, .units, .flags, .interp, .tx] s s' := h.mono (by decide)

/-! ### RUN -/

/-- A RUN that is not of four bytes is malformed (spec/05 R82). -/
theorem runPlan_of_length {payload : List Byte} (h : payload.length ≠ 4) (s : State) :
    runPlan payload s = (s, .refuse .malformed) := by
  unfold runPlan
  split
  · exact absurd rfl h
  · rfl

/-- A RUN outside IDLE (spec/05 R82). -/
theorem runPlan_of_active {s : State} (a b l0 l1 : Byte) (h : s.seq.plan ≠ .idle) :
    runPlan [a, b, l0, l1] s = (s, .refuse .planActive) := if_pos h

/-- A RUN of a range that is none (spec/05 R82). -/
theorem runPlan_of_range {s : State} {a b : Byte} (l0 l1 : Byte) (hidle : s.seq.plan = .idle)
    (h : b.toNat < a.toNat ∨ 95 < b.toNat) : runPlan [a, b, l0, l1] s = (s, .refuse .range) :=
  (if_neg fun hno => hno hidle).trans (dif_neg (by omega))

/-- A RUN of a range without a defined step (spec/05 R82). -/
theorem runPlan_of_none {s : State} {a b : Byte} (l0 l1 : Byte) (hidle : s.seq.plan = .idle) (hab : a.toNat ≤ b.toNat)
    (hb : b.toNat ≤ 95) (h : s.firstDefined a.toNat b.toNat = none) :
    runPlan [a, b, l0, l1] s = (s, .refuse .noSteps) := by
  refine (if_neg fun hno => hno hidle).trans ((dif_pos ⟨hab, by omega⟩).trans ?_)
  rw [h]

/-- A RUN of a range with a defined step starts its lowest (spec/05 R82). -/
theorem runPlan_of_some {s : State} {a b : Byte} {n first last : Fin 96} (l0 l1 : Byte) (hidle : s.seq.plan = .idle)
    (hfirst : first.val = a.toNat) (hlast : last.val = b.toNat) (hab : a.toNat ≤ b.toNat)
    (h : s.firstDefined a.toNat b.toNat = some n) :
    runPlan [a, b, l0, l1] s = (s.startRun first last (ofLeBytes [l0, l1]) n, .okWith [byteOf n.val]) := by
  obtain ⟨first, hf⟩ := first
  obtain ⟨last, hl⟩ := last
  subst hfirst hlast
  refine (if_neg fun hno => hno hidle).trans ((dif_pos ⟨hab, hl⟩).trans ?_)
  rw [h]

/-- The state from which an accepted RUN starts its step (spec/05 R82). -/
def State.runSet (first last : Fin 96) (loops : Nat) (n : Fin 96) (s : State) : State :=
  { s with seq := { s.seq with
    lastOutcome := none, runFirst := first, runLast := last, loopCount := loops, iteration := 0
    pausePending := false, runClockFrom := some s.now, step := n, attempt := 0 } }

/-- An accepted RUN starts its step with the fields of the run set (spec/05 R82). -/
theorem State.startRun_eq (first last : Fin 96) (loops : Nat) (n : Fin 96) (s : State) :
    s.startRun first last loops n = (s.runSet first last loops n).startStep := rfl

/-- The run clock of a run that starts shows 0 (spec/05 R82). -/
theorem State.runSet_runClock (first last : Fin 96) (loops : Nat) (n : Fin 96) (s : State) :
    (s.runSet first last loops n).runClock = 0 := by
  simp [State.runClock, State.runSet]

/-- Settles O26: the checks in order, and the start of the lowest defined step with the run's fields set. -/
theorem runStartsLowestDefinedStep : Obligations.RunStartsLowestDefinedStep := by
  refine ⟨fun t s f rest h hkind => ?checks,
    fun t s f rest a b l0 l1 n r h hkind hp hidle han hnb hb hlow hstep hwf => ?run⟩
  all_goals have hrow : Frame.isKind .run f = true := by simp [Frame.isKind, hkind, ReqKind.ofCode]
  case checks =>
    refine ⟨fun hlen => exec_answeredOnly (r := .refuse .malformed) rfl h hrow (runPlan_of_length hlen _) rfl,
      fun a b l0 l1 hp => ⟨fun hplan => ?_, fun hidle hrange => ?_, fun hidle hab hb hnone => ?_⟩⟩
    · exact exec_answeredOnly (r := .refuse .planActive) rfl h hrow (hp ▸ runPlan_of_active a b l0 l1 hplan) rfl
    · exact exec_answeredOnly (r := .refuse .range) rfl h hrow (hp ▸ runPlan_of_range l0 l1 hidle hrange) rfl
    · exact exec_answeredOnly (r := .refuse .noSteps) rfl h hrow (hp ▸ runPlan_of_none l0 l1 hidle hab hb
        (State.firstDefined_eq_none _ _ _ hnone)) rfl
  case run =>
    have lowest : ((s.advance t).popped rest).firstDefined a.toNat b.toNat = some n :=
      State.firstDefined_eq_some _ _ _ n han hnb (fun hnone => Option.some_ne_none r (hstep.symm.trans hnone)) hlow
    have body := (congrArg (runPlan · ((s.advance t).popped rest)) hp).trans
      (runPlan_of_some (first := ⟨a.toNat, by omega⟩) (last := ⟨b.toNat, by omega⟩) l0 l1 hidle rfl rfl (by omega) lowest)
    rw [State.startRun_eq] at body
    obtain ⟨s', hs', answer, settings, notices, unchanged, ends⟩ := exec_taken (c := .run t) rfl h hrow body
      (reaches_of_rule runPlan_touches body) (by decide) (by decide)
    have begins := State.startStep_begins (((s.advance t).popped rest).runSet ⟨a.toNat, by omega⟩ ⟨b.toNat, by omega⟩
      (ofLeBytes [l0, l1]) n) r hstep hwf
    have started := stepStarted_of_begins begins ends rfl rfl rfl rfl rfl
    rw [State.runSet_runClock] at started
    have now : s'.now = max s.now t := exec_now hs'
    refine ⟨s', hs', answer, settings, notices, ends.planRaised ?_ (congrArg Transmitter.plan begins.tx)
      (by rw [begins.interp]; rfl), unchangedBut_planBlocks unchanged, started, ?_⟩
    · rw [hidle, begins.condition]
      exact PlanCondition.noConfusion
    · have kept := begins.kept
      rw [ends.seq, now]
      generalize (State.startStep _).seq = q at kept ⊢
      rw [kept]
      exact ⟨rfl, rfl, ofLeBytes_pair l0 l1, rfl, rfl, rfl, rfl, rfl, rfl, rfl⟩

/-! ### PAUSE and RESUME -/

/-- A run under way is in a plan state other than IDLE and PAUSED (spec/05 R99). -/
theorem PlanState.underWay_iff {p : PlanState} : p.underWay = true ↔ p ≠ .idle ∧ p ≠ .paused := by
  cases p <;> simp [PlanState.underWay]

/-- A change of the sequencer that keeps the plan reaches the sequencer alone, and no line notes a change. -/
theorem exec_taken_of_seq {c : Instr} {s : State} {f : Frame} {rest : List Frame} {row : Frame → Bool}
    {body : List Byte → State → State × Reply} {t : Nat} {q : Sequencer}
    (hexec : exec c s = .next ((s.advance t).takeRequest row body)) (h : Takes s f rest) (hrow : row f = true)
    (hbody : body f.payload ((s.advance t).popped rest) = ({ (s.advance t).popped rest with seq := q }, .okWith []))
    (hq : q.plan = s.seq.plan) :
    ∃ s', exec c s = .next s' ∧ answered f rest [0, 0] s s' ∧ sameSettings s s' ∧ sameNotices s s' ∧
      unchangedBut [.seq, .interp, .tx] s s' ∧ s'.seq = q := by
  obtain ⟨s', hs', answer, settings, -, unchanged, ends⟩ := exec_taken (bs := [.seq]) hexec h hrow hbody
    ⟨rfl, fun b hb => by cases b <;> first | rfl | simp at hb, rfl, rfl, rfl⟩ (by decide) (by decide)
  exact ⟨s', hs', answer, settings, ends.sameNotices rfl (congrArg PlanState.condition hq.symm),
    unchanged.strike (b := .flags) (ends.flags_of_open rfl rfl hq (fun _ => rfl) rfl), ends.seq⟩

/-- Settles O31: each request by the plan state. -/
theorem pauseAndResumeByPlanState : Obligations.PauseAndResumeByPlanState := by
  refine ⟨fun t s f rest h hkind => ?pause, fun t s f rest h hkind => ?resume⟩
  case pause =>
    have hrow : Frame.isKind .pause f = true := by simp [Frame.isKind, hkind, ReqKind.ofCode]
    refine ⟨fun hpay => exec_answeredOnly (r := .refuse .malformed) rfl h hrow (noParameters_of_payload hpay _) rfl,
      fun hp => ⟨fun hplan => ?_, fun hplan => ?_, fun hidle hpaused => ?_⟩⟩
    · exact exec_answeredOnly (r := .refuse .planIdle) rfl h hrow ((noParameters_of_nil hp _).trans (if_pos hplan)) rfl
    · refine exec_answeredOnly (r := .okWith []) rfl h hrow ((noParameters_of_nil hp _).trans ?_) rfl
      exact (if_neg fun hidle => absurd (hplan.symm.trans hidle) PlanState.noConfusion).trans (if_pos hplan)
    · exact exec_taken_of_seq (c := .pause t) rfl h hrow ((noParameters_of_nil hp _).trans
        ((if_neg hidle).trans (if_neg hpaused))) rfl
  case resume =>
    have hrow : Frame.isKind .resume f = true := by simp [Frame.isKind, hkind, ReqKind.ofCode]
    refine ⟨fun hpay => exec_answeredOnly (r := .refuse .malformed) rfl h hrow (noParameters_of_payload hpay _) rfl,
      fun hp => ⟨fun hpaused hno => ?_, fun hpaused hidle hpending => ?_, fun hplan r hstep hwf => ?_⟩⟩
    · have not : ¬((s.seq.plan.underWay && s.seq.pausePending) = true) := fun hboth => by
        obtain ⟨hunder, hpending⟩ := Bool.and_eq_true_iff.mp hboth
        obtain ⟨hidle, -⟩ := PlanState.underWay_iff.mp hunder
        exact hno.elim hidle fun hclear => Bool.false_ne_true (hclear.symm.trans hpending)
      exact exec_answeredOnly (r := .refuse .notPaused) rfl h hrow ((noParameters_of_nil hp _).trans
        ((if_neg hpaused).trans (if_neg not))) rfl
    · have under : (s.seq.plan.underWay && s.seq.pausePending) = true :=
        Bool.and_eq_true_iff.mpr ⟨PlanState.underWay_iff.mpr ⟨hidle, hpaused⟩, hpending⟩
      exact exec_taken_of_seq (c := .resume t) rfl h hrow ((noParameters_of_nil hp _).trans
        ((if_neg hpaused).trans (if_pos under))) rfl
    · have body : noParameters resumePlan f.payload ((s.advance t).popped rest) =
          (((s.advance t).popped rest).startStep, .okWith []) := (noParameters_of_nil hp _).trans (if_pos hplan)
      obtain ⟨s', hs', answer, settings, notices, unchanged, ends⟩ := exec_taken (c := .resume t) rfl h hrow body
        (reaches_of_rule resumePlan_touches body) (by decide) (by decide)
      have begins := State.startStep_begins ((s.advance t).popped rest) r hstep hwf
      have started := stepStarted_of_begins begins ends rfl rfl rfl rfl rfl
      have now : s'.now = max s.now t := exec_now hs'
      refine ⟨s', hs', answer, settings, notices, ends.planRaised ?_ (congrArg Transmitter.plan begins.tx)
        (by rw [begins.interp]; rfl), unchangedBut_planBlocks unchanged, now ▸ started, ?_⟩
      · rw [hplan, begins.condition]
        exact PlanCondition.noConfusion
      · have kept := begins.kept
        rw [ends.seq]
        generalize (State.startStep _).seq = q at kept ⊢
        rw [kept]
        exact ⟨rfl, rfl, rfl, rfl, rfl, rfl, rfl, rfl, rfl, rfl⟩

/-! ### ABORT and the PLAN reset -/

section
variable {f : Frame} {rest : List Frame} {p : List Byte} {a : Attached} {s y s' : State} {t : Nat}

/-- A taking whose rule stops the run leaves it stopped (spec/05 R100). -/
theorem runStopped_of_ends {kind : OutcomeKind} (ends : TakingEnds f rest p a s y s' t) (hnow : y.now = max s.now t)
    (hseq : y.seq = (s.stopRun.setOutcome kind).seq) (hunits : y.units = s.stopRun.units)
    (hflags : y.flags = s.stopRun.flags) : runStopped kind s s' := by
  refine ⟨ends.seq.trans hseq, fun u => ?_, (ends.linesNoted hnow).congr fun n => ?_⟩
  · rw [ends.units, hunits]
    exact getElem_replicate_fin none u
  · rw [hflags]
    exact getElem_ofFn_fin _ n

end

/-- Only in IDLE is the plan condition IDLE (spec/05 R80). -/
theorem PlanState.condition_ne_idle {p : PlanState} (h : p ≠ .idle) : p.condition ≠ .idle := by
  cases p
  case idle => exact absurd rfl h
  all_goals exact PlanCondition.noConfusion

/-- Settles O32: the run stops, and its outcome is recorded. -/
theorem abortEndsRun : Obligations.AbortEndsRun := by
  intro t s f rest h hkind
  have hrow : Frame.isKind .abort f = true := by simp [Frame.isKind, hkind, ReqKind.ofCode]
  refine ⟨fun hpay => exec_answeredOnly (r := .refuse .malformed) rfl h hrow (noParameters_of_payload hpay _) rfl,
    fun hp hplan => exec_answeredOnly (r := .refuse .planIdle) rfl h hrow ((noParameters_of_nil hp _).trans (if_pos hplan)) rfl,
    fun hp hplan => ?_⟩
  have body : noParameters abortPlan f.payload ((s.advance t).popped rest) =
    (((s.advance t).popped rest).stopRun.setOutcome .aborted, .okWith []) :=
    (noParameters_of_nil hp _).trans (if_neg hplan)
  obtain ⟨s', hs', answer, settings, notices, unchanged, ends⟩ := exec_taken (c := .abort t) rfl h hrow body
    (reaches_of_rule abortPlan_touches body) (by decide) (by decide)
  refine ⟨s', hs', answer, settings, notices,
    ends.planRaised (PlanState.condition_ne_idle hplan) rfl rfl, runStopped_of_ends ends rfl rfl rfl rfl,
    unchangedBut_planBlocks unchanged⟩

/-- A PLAN reset of a run in progress stops it and empties the queue (spec/05 R106). -/
theorem State.planReset_of_active {s : State} (h : s.seq.plan ≠ .idle) :
    s.planReset = ({ s.stopRun with queue := { s.queue with records := [] } } : State).setOutcome .cleared := by
  rw [State.planReset, if_neg h]
  rfl

/-- A PLAN reset in IDLE empties the queue, and the pattern levels rest (spec/05 R106, spec/07 R135). -/
theorem State.planReset_of_idle {s : State} (h : s.seq.plan = .idle) :
    s.planReset = ({ s.restPatterns with queue := { s.queue with records := [] } } : State).setOutcome .cleared := by
  rw [State.planReset, if_pos h]
  rfl

/-- Settles O34: the queue is emptied, and a run in progress ends first. -/
theorem planResetClearsRunAndQueue : Obligations.PlanResetClearsRunAndQueue := by
  intro t s f rest h hkind
  have row (hp : f.payload ≠ [1]) : f.isResetPlan = true := by
    rw [Frame.isResetPlan, decide_eq_true hp]
    simp [Frame.isKind, hkind, ReqKind.ofCode]
  refine ⟨fun hlen => ?malformed, fun x hp hx => ?range, fun hp => ?reset⟩
  case malformed =>
    refine exec_answeredOnly (r := .refuse .malformed) rfl h (row fun hp => hlen (by rw [hp]; rfl)) ?_ rfl
    unfold resetPlan
    split
    · next hp =>
      exact absurd (by rw [hp]; rfl) hlen
    · rfl
  case range =>
    have not0 : x ≠ 0 := fun e => by rw [e] at hx; exact absurd hx (by decide)
    refine exec_answeredOnly (r := .refuse .range) rfl h (row fun hp' => ?_) (hp ▸ if_neg not0) rfl
    rw [hp] at hp'
    rw [(List.cons.inj hp').1] at hx
    exact absurd hx (by decide)
  case reset =>
    have body : resetPlan f.payload ((s.advance t).popped rest) =
        (((s.advance t).popped rest).planReset, .okWith []) := by
      rw [hp]
      rfl
    obtain ⟨s', hs', answer, settings, notices, unchanged, ends⟩ := exec_taken (c := .resetPlan t) rfl h
      (row (by rw [hp]; decide)) body (reaches_of_rule resetPlan_touches body) (by decide) (by decide)
    refine ⟨s', hs', answer, settings, notices, unchanged.mono (by decide), ?_, fun hplan => ?_, fun hplan => ?_⟩
    · rw [ends.queue]
      unfold State.planReset
      split <;> rfl
    · have active := State.planReset_of_active (s := (s.advance t).popped rest) hplan
      rw [active] at ends
      exact ⟨ends.planRaised (PlanState.condition_ne_idle hplan) rfl rfl, runStopped_of_ends ends rfl rfl rfl rfl⟩
    · have idle := State.planReset_of_idle (s := (s.advance t).popped rest) hplan
      rw [idle] at ends
      exact ⟨ends.planKept rfl, ends.units, ends.seq, (ends.linesNoted rfl).congr fun n => getElem_ofFn_fin _ n⟩

end Sys2Proof.Machine
end

section
/-! The verdicts of lanes and step, and the report of STATUS (spec/05 R88, R89, R102; spec/10 10.7). -/

namespace Sys2Proof.Machine

set_option Elab.async false

/-! ### Verdicts -/

section
variable {l : Lane} {c : CloseReport}

/-- The residue check is met when the residue expected is the one reported (spec/05 R88). -/
theorem residueCheck_eq_met : residueCheck l c = .met ↔ l.expectedResidue = some c.residue := by
  unfold residueCheck
  cases l.expectedResidue with
  | none => simp
  | some x =>
    by_cases h : c.residue = x
    · simp [h]
    · simp [h, Ne.symm h]

/-- The residue check applies where a residue is expected (spec/05 R88). -/
theorem residueCheck_eq_notApplied : residueCheck l c = .notApplied ↔ l.expectedResidue = none := by
  unfold residueCheck
  cases l.expectedResidue with
  | none => simp
  | some x => by_cases h : c.residue = x <;> simp [h]

/-- The residue check fails where another residue is expected (spec/05 R88). -/
theorem residueCheck_eq_failed : residueCheck l c = .failed ↔ ∃ x, l.expectedResidue = some x ∧ c.residue ≠ x := by
  unfold residueCheck
  cases l.expectedResidue with
  | none => simp
  | some x => by_cases h : c.residue = x <;> simp [h]

/-- The count check is met when the sample count lies in the range expected (spec/05 R88). -/
theorem countCheck_eq_met :
    countCheck l c = .met ↔ ∃ g, l.expectedCount = some g ∧ g.min ≤ c.samples ∧ c.samples ≤ g.max := by
  unfold countCheck
  cases l.expectedCount with
  | none => simp
  | some g => by_cases h : g.min ≤ c.samples ∧ c.samples ≤ g.max <;> simp [h]

/-- The count check applies where a range is expected (spec/05 R88). -/
theorem countCheck_eq_notApplied : countCheck l c = .notApplied ↔ l.expectedCount = none := by
  unfold countCheck
  cases l.expectedCount with
  | none => simp
  | some g => by_cases h : g.min ≤ c.samples ∧ c.samples ≤ g.max <;> simp [h]

/-- The count check fails where the sample count lies outside the range expected (spec/05 R88). -/
theorem countCheck_eq_failed :
    countCheck l c = .failed ↔ ∃ g, l.expectedCount = some g ∧ ¬(g.min ≤ c.samples ∧ c.samples ≤ g.max) := by
  unfold countCheck
  cases l.expectedCount with
  | none => simp
  | some g => by_cases h : g.min ≤ c.samples ∧ c.samples ≤ g.max <;> simp [h, -not_and]

/-- Every criterion that a lane carries is met. -/
def criteriaMet (l : Lane) (c : CloseReport) : Prop :=
  (∀ x, l.expectedResidue = some x → c.residue = x) ∧
    ∀ g, l.expectedCount = some g → g.min ≤ c.samples ∧ c.samples ≤ g.max

/-- The criteria are met when no check fails (spec/05 R88). -/
theorem criteriaMet_iff : criteriaMet l c ↔ residueCheck l c ≠ .failed ∧ countCheck l c ≠ .failed := by
  rw [Ne, residueCheck_eq_failed, Ne, countCheck_eq_failed, criteriaMet]
  simp only [not_exists, not_and_not_right]

/-- A window that did not stop gives a FAULT (spec/05 R88). -/
theorem laneVerdict_of_not_stop (h : c.reason ≠ .stop) : laneVerdict l c = .fault := by
  unfold laneVerdict
  cases hr : c.reason
  case stop => exact absurd hr h
  all_goals rfl

/-- The verdict of a window that stopped: by the two checks (spec/05 R88). -/
theorem laneVerdict_of_stop (h : c.reason = .stop) :
    laneVerdict l c = if residueCheck l c = .notApplied ∧ countCheck l c = .notApplied then .unchecked
      else if residueCheck l c ≠ .failed ∧ countCheck l c ≠ .failed then .pass else .fail := by
  unfold laneVerdict
  rw [h]
  dsimp only
  cases residueCheck l c <;> cases countCheck l c <;> rfl

end

/-- Settles O28: the verdicts by the checks, and the step verdict in its order. -/
theorem verdictsFollowCriteria : Obligations.VerdictsFollowCriteria := by
  refine ⟨fun l c => ⟨laneVerdict_of_not_stop, fun hstop hres hcount => ?unchecked, fun hstop hsome => ?judged,
    residueCheck_eq_notApplied, residueCheck_eq_met, countCheck_eq_notApplied, countCheck_eq_met⟩, fun vs => ?step⟩
  case unchecked =>
    rw [laneVerdict_of_stop hstop,
      if_pos ⟨residueCheck_eq_notApplied.mpr hres, countCheck_eq_notApplied.mpr hcount⟩]
  case judged =>
    have applied : ¬(residueCheck l c = .notApplied ∧ countCheck l c = .notApplied) := fun ⟨hres, hcount⟩ =>
      hsome.elim (absurd (residueCheck_eq_notApplied.mp hres)) (absurd (countCheck_eq_notApplied.mp hcount))
    rw [laneVerdict_of_stop hstop, if_neg applied]
    show (_ ↔ criteriaMet l c) ∧ (_ ↔ ¬criteriaMet l c)
    rw [criteriaMet_iff]
    by_cases met : residueCheck l c ≠ .failed ∧ countCheck l c ≠ .failed <;> simp [met]
  case step =>
    unfold stepVerdictOf
    by_cases hfault : Verdict.fault ∈ vs <;> by_cases hfail : Verdict.fail ∈ vs <;>
      by_cases hpass : Verdict.pass ∈ vs <;> simp [hfault, hfail, hpass]

/-! ### STATUS -/

/-- The four bytes of an outcome (spec/10 10.7). -/
theorem outcomeBytes_four (o : Option LastOutcome) : ∃ a b c d, outcomeBytes o = [a, b, c, d] := by
  cases o with
  | none => exact ⟨0, 0, 0, 0, rfl⟩
  | some o => exact ⟨_, _, _, _, rfl⟩

/-- The four bytes of the sequence numbers held (spec/10 10.7). -/
def heldBytes (q : ResultQueue) : List Byte :=
  if q.records.length = 0 then [0, 0, 0, 0] else leBytes 2 q.oldest.toNat ++ leBytes 2 q.newest.toNat

/-- The sequence numbers held take four bytes (spec/10 10.7). -/
theorem heldBytes_four (q : ResultQueue) : ∃ a b c d, heldBytes q = [a, b, c, d] := by
  unfold heldBytes
  split
  · exact ⟨0, 0, 0, 0, rfl⟩
  · exact ⟨_, _, _, _, rfl⟩

/-- The unit states as one number, two bits for each unit (spec/10 10.7). -/
def unitStates (s : State) : Nat := allUnits.foldl (fun acc u => acc + unitCode s.units[u] * 4 ^ u.val) 0

/-- A unit state is a number below 4. -/
theorem unitCode_lt (b : Option Bound) : unitCode b < 4 := by
  unfold unitCode
  cases b with
  | none => exact Nat.succ_pos 3
  | some b =>
    dsimp only
    split <;> omega

/-- Eight digits of base 4 fit two bytes, and each stands in its two bits. -/
theorem base4_digits {c : Fin 8 → Nat} (h : ∀ u, c u < 4) :
    allUnits.foldl (fun acc u => acc + c u * 4 ^ u.val) 0 < 65536 ∧
      ∀ u : Fin 8, allUnits.foldl (fun acc u => acc + c u * 4 ^ u.val) 0 / 4 ^ u.val % 4 = c u := by
  have sum : allUnits.foldl (fun acc u => acc + c u * 4 ^ u.val) 0 =
      c 0 + c 1 * 4 + c 2 * 16 + c 3 * 64 + c 4 * 256 + c 5 * 1024 + c 6 * 4096 + c 7 * 16384 := by
    simp [allUnits]
  have h0 := h 0
  have h1 := h 1
  have h2 := h 2
  have h3 := h 3
  have h4 := h 4
  have h5 := h 5
  have h6 := h 6
  have h7 := h 7
  rw [sum]
  refine ⟨by omega, fun u => ?_⟩
  fin_cases u <;> simp <;> omega

/-- The STATUS reply as its bytes stand (spec/10 10.7). -/
theorem statusBytes_eq (s : State) : statusBytes s =
    [byteOf (planCode s.seq.plan), byteOf s.seq.runFirst.val, byteOf s.seq.runLast.val] ++ leBytes 2 s.seq.loopCount ++
      [byteOf s.seq.step.val, byteOf s.seq.attempt] ++ leBytes 2 s.seq.iteration ++
      [byteOf (ofBits [s.seq.pausePending, s.seq.lastOutcome.isSome])] ++ outcomeBytes s.seq.lastOutcome ++
      leBytes 2 (unitStates s) ++ [byteOf s.queue.records.length] ++ heldBytes s.queue ++
      leBytes 2 s.queue.next.toNat := rfl

/-- A number of two bytes, read back. -/
theorem ofLeBytes_two (n : Nat) : ofLeBytes [byteOf n, byteOf (n / 256)] = n % 65536 := ofLeBytes_leBytes 2 n

/-- Settles O33: the 25 bytes one after another, each read at its place. -/
theorem statusReportsPlanAndQueue : Obligations.StatusReportsPlanAndQueue := by
  intro t s f rest h hkind
  have hrow : Frame.isKind .status f = true := by simp [Frame.isKind, hkind, ReqKind.ofCode]
  refine ⟨fun hpay => exec_answeredOnly (r := .refuse .malformed) rfl h hrow (noParameters_of_payload hpay _) rfl,
    fun hp => ?_⟩
  obtain ⟨s', hs', only⟩ := exec_answeredOnly (c := .status t) (r := .okWith (statusBytes s)) rfl h hrow
    (noParameters_of_nil hp _) rfl
  obtain ⟨o0, o1, o2, o3, outcome⟩ := outcomeBytes_four s.seq.lastOutcome
  obtain ⟨h0, h1, h2, h3, held⟩ := heldBytes_four s.queue
  obtain ⟨small, digits⟩ := base4_digits (c := fun u => unitCode s.units[u]) fun u => unitCode_lt _
  have bytes : (Reply.okWith (statusBytes s)).payload = [0, 0, byteOf (planCode s.seq.plan), byteOf s.seq.runFirst.val,
      byteOf s.seq.runLast.val, byteOf s.seq.loopCount, byteOf (s.seq.loopCount / 256), byteOf s.seq.step.val,
      byteOf s.seq.attempt, byteOf s.seq.iteration, byteOf (s.seq.iteration / 256),
      byteOf (ofBits [s.seq.pausePending, s.seq.lastOutcome.isSome]), o0, o1, o2, o3, byteOf (unitStates s),
      byteOf (unitStates s / 256), byteOf s.queue.records.length, h0, h1, h2, h3, byteOf s.queue.next.toNat,
      byteOf (s.queue.next.toNat / 256)] := by
    rw [statusBytes_eq, outcome, held]
    rfl
  refine ⟨s', _, hs', only, ?_⟩
  rw [bytes]
  refine ⟨rfl, rfl, ?plan, ?first, ?last, ofLeBytes_two _, ?step, byteOf_toNat _, ofLeBytes_two _, ?bits, ?outcome,
    fun u => ?unit, byteOf_toNat _, fun hrecords => ?ends, fun hrecords => ?empty, ?next⟩
  case plan =>
    show (byteOf (planCode s.seq.plan)).toNat = _
    cases s.seq.plan <;> rfl
  case first => exact (byteOf_toNat _).trans (Nat.mod_eq_of_lt (Nat.lt_trans s.seq.runFirst.isLt (by decide)))
  case last => exact (byteOf_toNat _).trans (Nat.mod_eq_of_lt (Nat.lt_trans s.seq.runLast.isLt (by decide)))
  case step => exact (byteOf_toNat _).trans (Nat.mod_eq_of_lt (Nat.lt_trans s.seq.step.isLt (by decide)))
  case bits =>
    show (byteOf (ofBits [s.seq.pausePending, s.seq.lastOutcome.isSome])).toNat = _
    cases s.seq.pausePending <;> cases s.seq.lastOutcome <;> rfl
  case outcome =>
    refine outcome.symm.trans ?_
    cases s.seq.lastOutcome <;> rfl
  case unit =>
    refine Eq.trans ?_ (digits u)
    show ofLeBytes [byteOf (unitStates s), byteOf (unitStates s / 256)] / 4 ^ u.val % 4 = _
    rw [ofLeBytes_two, unitStates, Nat.mod_eq_of_lt small]
  case ends =>
    have some := held.symm.trans (if_neg fun e => hrecords (List.length_eq_zero_iff.mp e))
    injection some with e0 some
    injection some with e1 some
    injection some with e2 some
    injection some with e3 some
    show ofLeBytes [h0, h1] = _ ∧ ofLeBytes [h2, h3] = _
    rw [e0, e1, e2, e3]
    exact ⟨(ofLeBytes_two _).trans (Nat.mod_eq_of_lt (BitVec.isLt _)),
      (ofLeBytes_two _).trans (Nat.mod_eq_of_lt (BitVec.isLt _))⟩
  case empty => exact held.symm.trans (if_pos (List.length_eq_zero_iff.mpr hrecords))
  case next => exact (ofLeBytes_two _).trans (Nat.mod_eq_of_lt (BitVec.isLt _))

end Sys2Proof.Machine
end

section
/-! The step boundary: its choice by verdict and on-fail fields, and what it leaves (spec/05 R93 to R97). -/

namespace Sys2Proof.Machine

set_option Elab.async false

/-! ### The choice -/

section
variable {s : State} {r : StepRecord} {v : Verdict}

/-- A verdict fails when it is FAIL or FAULT (spec/05 R94). -/
theorem Verdict.failing_iff : v.failing = true ↔ v = .fail ∨ v = .fault := by
  simp [Verdict.failing]

/-- A failing verdict goes by the on-fail field of the step (spec/05 R94). -/
theorem State.boundaryChoice_of_failing (hr : s.seq.stepCopy = some r) (hv : v = .fail ∨ v = .fault) :
    s.boundaryChoice v =
      match r.onFail with
      | .cont => s.advanceChoice
      | .halt => .runEnd .halted
      | .retry limit exhaust =>
        if s.seq.attempt < limit then .start s.seq.step (s.seq.attempt + 1) s.seq.iteration
        else
          match exhaust with
          | .cont => s.advanceChoice
          | .halt => .runEnd .halted := by
  rw [State.boundaryChoice, if_pos (Verdict.failing_iff.mpr hv), hr]
  rfl

/-- A failing verdict below the retry limit retries (spec/05 R94). -/
theorem State.boundaryChoice_of_retry {limit : Nat} {x : ExhaustAction} (hr : s.seq.stepCopy = some r)
    (hv : v = .fail ∨ v = .fault) (hfail : r.onFail = .retry limit x) (hlimit : s.seq.attempt < limit) :
    s.boundaryChoice v = .start s.seq.step (s.seq.attempt + 1) s.seq.iteration := by
  rw [State.boundaryChoice_of_failing hr hv, hfail]
  exact if_pos hlimit

/-- A failing verdict with nothing left but to halt ends the run (spec/05 R94). -/
theorem State.boundaryChoice_of_halt (hr : s.seq.stepCopy = some r) (hv : v = .fail ∨ v = .fault)
    (hfail : r.onFail = .halt ∨ ∃ limit, r.onFail = .retry limit .halt ∧ limit ≤ s.seq.attempt) :
    s.boundaryChoice v = .runEnd .halted := by
  rw [State.boundaryChoice_of_failing hr hv]
  obtain hfail | ⟨limit, hfail, hlimit⟩ := hfail <;> rw [hfail]
  exact if_neg (Nat.not_lt.mpr hlimit)

/-- A passing verdict, CONTINUE, and a retry limit reached with CONTINUE advance (spec/05 R94). -/
theorem State.boundaryChoice_of_advance (hr : s.seq.stepCopy = some r)
    (h : v = .pass ∨ v = .unchecked ∨ r.onFail = .cont ∨ ∃ limit, r.onFail = .retry limit .cont ∧ limit ≤ s.seq.attempt) :
    s.boundaryChoice v = s.advanceChoice := by
  by_cases hv : v = .fail ∨ v = .fault
  · rw [State.boundaryChoice_of_failing hr hv]
    obtain h | h | h | ⟨limit, h, hlimit⟩ := h
    · subst h
      exact absurd hv (by decide)
    · subst h
      exact absurd hv (by decide)
    · rw [h]
    · rw [h]
      exact if_neg (Nat.not_lt.mpr hlimit)
  · exact if_neg fun hf => hv (Verdict.failing_iff.mp hf)

/-- To advance with a defined step left in the range (spec/05 R95). -/
theorem State.advanceChoice_of_next {n : Fin 96} (h1 : s.seq.step < n) (h2 : n ≤ s.seq.runLast) (hn : s.steps[n] ≠ none)
    (hlow : ∀ m : Fin 96, s.seq.step < m → m < n → s.steps[m] = none) :
    s.advanceChoice = .start n 0 s.seq.iteration := by
  have next : s.nextDefined s.seq.step.val s.seq.runLast.val = some n :=
    State.firstDefined_eq_some s _ _ n h1 h2 hn fun m hm => hlow m hm
  rw [State.advanceChoice, next]

/-- No defined step is left in the range (spec/05 R95). -/
theorem State.nextDefined_eq_none (h : ∀ n : Fin 96, s.seq.step < n → n ≤ s.seq.runLast → s.steps[n] = none) :
    s.nextDefined s.seq.step.val s.seq.runLast.val = none :=
  State.firstDefined_eq_none s _ _ fun m h1 h2 => h m h1 h2

/-- A further pass starts the first defined step of the range (spec/05 R95). -/
theorem State.advanceChoice_of_pass {n : Fin 96}
    (h : ∀ n : Fin 96, s.seq.step < n → n ≤ s.seq.runLast → s.steps[n] = none)
    (hloop : s.seq.loopCount = 0 ∨ s.seq.iteration + 1 < s.seq.loopCount) (h1 : s.seq.runFirst ≤ n)
    (h2 : n ≤ s.seq.runLast) (hn : s.steps[n] ≠ none)
    (hlow : ∀ m : Fin 96, s.seq.runFirst ≤ m → m < n → s.steps[m] = none) :
    s.advanceChoice = .start n 0 ((s.seq.iteration + 1) % 65536) := by
  have first := State.firstDefined_eq_some s _ _ n h1 h2 hn fun m hm => hlow m hm
  rw [State.advanceChoice, State.nextDefined_eq_none h]
  dsimp only
  rw [if_pos hloop, first]
  rfl

/-- With no step and no pass left the run is DONE (spec/05 R95). -/
theorem State.advanceChoice_of_done (h : ∀ n : Fin 96, s.seq.step < n → n ≤ s.seq.runLast → s.steps[n] = none)
    (h0 : s.seq.loopCount ≠ 0) (hloop : s.seq.loopCount ≤ s.seq.iteration + 1) : s.advanceChoice = .runEnd .done := by
  rw [State.advanceChoice, State.nextDefined_eq_none h]
  exact if_neg (by omega)

/-! ### What the boundary leaves -/

/-- A line at a boundary takes its pulse by its source and the verdict (spec/05 R93, spec/07 R128). -/
theorem State.boundaryPulses_line (v : Verdict) (s : State) (n : Fin 4) :
    (s.boundaryPulses v).flags[n] = pulsed s.now v s.flags[n] := by
  unfold State.boundaryPulses pulsed State.trigger
  by_cases hv : v = .fail ∨ v = .fault
  · rw [if_pos (Verdict.failing_iff.mpr hv)]
    simp only [getElem_ofFn_fin]
    cases hsource : (s.flags[n]).source <;> simp [-Fin.getElem_fin, hsource, hv]
  · rw [if_neg fun hf => hv (Verdict.failing_iff.mp hf)]
    simp only [getElem_ofFn_fin, hv, and_false, or_false]

/-- Units released, reports discarded, pulses triggered (spec/05 R93). -/
theorem State.release_boundaryPulses (hr : s.seq.stepCopy = some r) (v : Verdict) :
    s.release.boundaryPulses v = s.released r v := by
  have lines : (s.release.boundaryPulses v).flags = Vector.ofFn fun n => pulsed s.now v s.flags[n] := by
    refine Vector.ext fun i hi => ?_
    rw [Vector.getElem_ofFn]
    exact State.boundaryPulses_line v s.release ⟨i, hi⟩
  have frame : s.release.boundaryPulses v = { s.release with flags := (s.release.boundaryPulses v).flags } := by
    unfold State.boundaryPulses State.trigger
    split <;> rfl
  rw [frame, lines, State.released, State.release]
  have named (u : Fin 8) : s.seq.namesUnit u = r.lanes.any fun l => decide (l.unit = u) := by
    rw [Sequencer.namesUnit, hr]
    rfl
  simp only [named]

/-- What a boundary chooses it chooses by the fields that the release leaves (spec/05 R93, R94). -/
theorem State.released_boundaryChoice (r : StepRecord) (v : Verdict) (s : State) :
    (s.released r v).boundaryChoice v = s.boundaryChoice v := rfl

/-- A boundary releases, chooses, and carries out its choice (spec/05 R93). -/
theorem State.boundary_eq (hr : s.seq.stepCopy = some r) (v : Verdict) :
    s.boundary v = (s.released r v).carryOut (s.boundaryChoice v) := by
  rw [State.boundary, State.release_boundaryPulses hr, State.released_boundaryChoice]

/-- A pulse leaves the rest level of its line (spec/07 R128). -/
theorem pulsed_restLevel (now : Nat) (v : Verdict) (f : FlagLine) : (pulsed now v f).restLevel = f.restLevel := by
  unfold pulsed
  split <;> rfl

/-- A run that ends at a boundary leaves the pattern levels at rest (spec/05 R97, spec/07 R127). -/
theorem State.released_endRun (r : StepRecord) (v : Verdict) (kind : OutcomeKind) (s : State) :
    (s.released r v).endRun kind = { s.released r v with
      seq := { (s.released r v).seq with
        plan := .idle, pausePending := false, runClockFrom := none, settleEndAt := none, stepTimerAt := none,
        lastOutcome := some { kind := kind, step := s.seq.step, iteration := s.seq.iteration } }
      flags := Vector.ofFn fun n => { pulsed s.now v s.flags[n] with patternLevel := (s.flags[n]).restLevel } } := by
  have line (n : Fin 4) : (s.released r v).flags[n] = pulsed s.now v s.flags[n] := getElem_ofFn_fin _ n
  simp only [State.endRun, State.restPatterns, line, pulsed_restLevel]
  rfl

end

/-- Settles O30: the choice by verdict and on-fail field, and the release with each choice carried out. -/
theorem boundaryChoosesByVerdict : Obligations.BoundaryChoosesByVerdict := by
  refine ⟨fun s r v hr => ⟨fun limit x hv hfail hlimit => State.boundaryChoice_of_retry hr hv hfail hlimit,
    fun hv hfail => State.boundaryChoice_of_halt hr hv hfail, fun hadv => ?advance⟩, fun s r v hr => ?carried⟩
  case advance =>
    rw [State.boundaryChoice_of_advance hr hadv]
    exact ⟨fun n h1 h2 hn hlow => State.advanceChoice_of_next h1 h2 hn hlow, fun hlast =>
      ⟨fun n hloop h1 h2 hn hlow => State.advanceChoice_of_pass hlast hloop h1 h2 hn hlow,
        fun h0 hloop => State.advanceChoice_of_done hlast h0 hloop⟩⟩
  case carried =>
    refine ⟨fun kind hchoice => ?_, fun n a i hchoice => ⟨fun hpending => ?_, fun hpending q hq hwf => ?_⟩⟩
    · rw [State.boundary_eq hr, hchoice]
      exact State.released_endRun r v kind s
    · rw [State.boundary_eq hr, hchoice]
      exact if_pos hpending
    · rw [State.boundary_eq hr, hchoice]
      have starts : (s.released r v).carryOut (.start n a i) = State.startStep { s.released r v with
          seq := { (s.released r v).seq with step := n, attempt := a, iteration := i } } :=
        if_neg (by rw [show (s.released r v).seq.pausePending = s.seq.pausePending from rfl, hpending]; exact Bool.false_ne_true)
      rw [starts]
      exact State.startStep_begins _ q hq hwf

end Sys2Proof.Machine
end

section
/-! The post of an attempt and the boundary after it, told apart from the link: neither reads nor reaches what the
interpreter and TXD hold but the mask and the RESULTS notice (spec/05 R87 to R97, spec/06 R113 to R117). -/

namespace Sys2Proof.Machine

set_option Elab.async false

/-! ### The boundary and the link -/

/-- The state with another interpreter and transmitter. -/
def State.withLink (i : Interpreter) (x : Transmitter) (s : State) : State := { s with interp := i, tx := x }

section
variable (i : Interpreter) (x : Transmitter)

/-- An arm does not look at the link. -/
theorem State.withLink_armAll (ls : List Lane) (s : State) : (s.withLink i x).armAll ls = (s.armAll ls).withLink i x := by
  induction ls generalizing s with
  | nil => rfl
  | cons l ls ih =>
    have one : (s.withLink i x).armLane l = (s.armLane l).withLink i x := by
      unfold State.armLane
      rw [show (s.withLink i x).profileAt l.profile = s.profileAt l.profile from rfl]
      cases s.profileAt l.profile <;> rfl
    show ((s.withLink i x).armLane l).armAll ls = ((s.armLane l).armAll ls).withLink i x
    rw [one, ih]

/-- The end of the settle time does not look at the link. -/
theorem State.withLink_capture (s : State) : (s.withLink i x).capture = s.capture.withLink i x := by
  unfold State.capture
  rw [show (s.withLink i x).seq.stepCopy = s.seq.stepCopy from rfl]
  cases s.seq.stepCopy with
  | none => rfl
  | some r =>
    dsimp only
    rw [State.withLink_armAll]
    rfl

/-- A pattern does not look at the link. -/
theorem State.withLink_applyPattern (p : Option (Vector PatternValue 4)) (s : State) :
    (s.withLink i x).applyPattern p = (s.applyPattern p).withLink i x := by
  cases p <;> rfl

/-- The start of a step does not look at the link. -/
theorem State.withLink_startStep (s : State) : (s.withLink i x).startStep = s.startStep.withLink i x := by
  unfold State.startStep
  rw [show (s.withLink i x).steps[(s.withLink i x).seq.step] = s.steps[s.seq.step] from rfl]
  cases s.steps[s.seq.step] with
  | none => rfl
  | some r =>
    have patterned := State.withLink_applyPattern i x r.pattern { s with seq := { s.seq with
      stepCopy := some r, reports := Vector.replicate 8 none, stepStart := s.runClock } }
    dsimp only
    cases r.settle.getD 0 with
    | zero => exact (congrArg State.capture patterned).trans (State.withLink_capture i x _)
    | succ n =>
      exact congrArg (fun y : State => { y with seq := { y.seq with
        plan := .settling, settleEndAt := some (y.now + micros (n + 1)) } }) patterned

/-- What a boundary chooses does not look at the link. -/
theorem State.withLink_carryOut (c : Choice) (s : State) : (s.withLink i x).carryOut c = (s.carryOut c).withLink i x := by
  cases c with
  | runEnd kind => rfl
  | start n a k =>
    unfold State.carryOut
    dsimp only
    rw [show (s.withLink i x).seq.pausePending = s.seq.pausePending from rfl]
    split
    · rfl
    · exact State.withLink_startStep i x { s with seq := { s.seq with step := n, attempt := a, iteration := k } }

/-- The boundary does not look at the link (spec/05 R93). -/
theorem State.withLink_boundary (v : Verdict) (s : State) : (s.withLink i x).boundary v = (s.boundary v).withLink i x := by
  have pulses : (s.withLink i x).release.boundaryPulses v = (s.release.boundaryPulses v).withLink i x := by
    unfold State.boundaryPulses
    split <;> rfl
  unfold State.boundary
  dsimp only
  rw [pulses]
  exact State.withLink_carryOut i x _ _

end

/-! ### The plan after a boundary -/

/-- A step that starts leaves HELD behind, and the held verdict (spec/05 R84). -/
theorem State.startStep_plan {s : State} (h : s.steps[s.seq.step] ≠ none) :
    s.startStep.seq.plan ≠ .held ∧ s.startStep.seq.heldVerdict = s.seq.heldVerdict := by
  obtain ⟨r, hr⟩ := Option.ne_none_iff_exists'.mp h
  rw [State.startStep_eq s r hr]
  dsimp only
  split
  · exact ⟨PlanState.noConfusion, rfl⟩
  · rw [State.capture_eq _ r rfl]
    exact ⟨PlanState.noConfusion, rfl⟩

/-- After a boundary the plan is not HELD, and the held verdict stands as before (spec/05 R96, R97). -/
theorem State.boundary_plan (v : Verdict) {s : State} (h : s.steps[s.seq.step] ≠ none) :
    (s.boundary v).seq.plan ≠ .held ∧ (s.boundary v).seq.heldVerdict = s.seq.heldVerdict := by
  have pulses : ∃ flags, s.release.boundaryPulses v = { s.release with flags := flags } := by
    unfold State.boundaryPulses State.trigger
    split <;> exact ⟨_, rfl⟩
  obtain ⟨flags, pulses⟩ := pulses
  unfold State.boundary
  dsimp only
  rw [pulses]
  rcases State.carryOut_cases (State.boundaryChoice v { s.release with flags := flags }) { s.release with flags := flags }
    with ⟨kind, -, hc⟩ | ⟨n, a, i, -, -, hc⟩ | ⟨n, a, i, hchoice, -, hc⟩
  · rw [hc]
    exact ⟨PlanState.noConfusion, rfl⟩
  · rw [hc]
    exact ⟨PlanState.noConfusion, rfl⟩
  · rw [hc]
    exact State.startStep_plan (State.boundaryChoice_defined v { s.release with flags := flags } h n a i hchoice)

/-! ### The post -/

/-- Records that are posted join the queue, and RESULTS is raised by R116 (spec/06 R113, R116). -/
theorem State.postRecords_eq (rs : List ResultRecord) (s : State) :
    s.postRecords rs = { s with
      queue := s.queue.append rs
      tx := { s.tx with
        results := resultsNoticed s.queue.records.length rs.length s.queue.next s.interp.mask s.tx.results } } := by
  have raises : (s.queue.records.isEmpty || s.tx.results.isSome) = true ↔
      s.queue.records.length = 0 ∨ s.tx.results ≠ none := by
    simp [Option.isSome_iff_ne_none]
  have oldest : s.queue.next + BitVec.ofNat 16 rs.length - BitVec.ofNat 16 (s.queue.records.length + rs.length) =
      s.queue.next - BitVec.ofNat 16 s.queue.records.length := by
    rw [BitVec.ofNat_add]
    bv_omega
  unfold State.postRecords resultsNoticed
  dsimp only
  by_cases hraise : s.queue.records.length = 0 ∨ s.tx.results ≠ none
  · rw [if_pos (raises.mpr hraise)]
    unfold State.raiseResults
    dsimp only [ResultQueue.append]
    split
    · next hmask => rw [if_pos ⟨hmask, hraise⟩, List.length_append, oldest]; rfl
    · next hmask => rw [if_neg fun h => hmask h.1]
  · rw [if_neg fun h => hraise (raises.mp h), if_neg fun h => hraise h.2]

/-- The state from which the boundary follows a post (spec/05 R91, R92). -/
def State.posted (v : Verdict) (s : State) : State :=
  { s with
    queue := s.queue.append (s.seq.recordsOf v s.queue.next)
    tx := { s.tx with
      results := resultsNoticed s.queue.records.length (s.seq.recordsOf v s.queue.next).length s.queue.next
        s.interp.mask s.tx.results }
    seq := { s.seq with heldVerdict := none } }

/-- With room the boundary follows the post (spec/05 R91). -/
theorem State.askToPost_of_hasRoom {s : State} {v : Verdict}
    (h : s.queue.hasRoom (s.seq.recordsOf v s.queue.next).length = true) : s.askToPost v = (s.posted v).boundary v := by
  rw [State.askToPost, if_pos h, State.postRecords_eq]
  rfl

/-- Without room the attempt is held with its verdict (spec/05 R91). -/
theorem State.askToPost_of_not_hasRoom {s : State} {v : Verdict}
    (h : s.queue.hasRoom (s.seq.recordsOf v s.queue.next).length = false) :
    s.askToPost v = { s with seq := { s.seq with plan := .held, heldVerdict := some v } } := by
  rw [State.askToPost, h]
  rfl

/-- There is room for records, at least one, when they and those held are 64 at most (spec/06 R113). -/
theorem ResultQueue.hasRoom_iff {q : ResultQueue} {n : Nat} (h : 1 ≤ n) :
    q.hasRoom n = true ↔ q.records.length + n ≤ 64 := by
  rw [ResultQueue.hasRoom, decide_eq_true_iff, Config.queueCapacity]
  omega

section
variable {s : State} {r : StepRecord}

/-- An attempt whose lanes all have reports gives one record for each lane (spec/05 R90). -/
theorem Sequencer.recordsOf_length_of_lanes {q : Sequencer} (v : Verdict) (n : BitVec 16) (hr : q.stepCopy = some r)
    (h8 : r.lanes.length ≤ 8) (hall : ∀ j : Fin 8, j.val < r.lanes.length → q.reports[j] ≠ none) :
    (q.recordsOf v n).length = r.lanes.length :=
  (q.recordsOf_length v n).trans (q.judged_eq r hr h8 hall).1

/-- The records of an attempt stand in lane order with the values of the reports (spec/05 R90). -/
theorem recordsOf_of_lanes (v : Verdict) (hr : s.seq.stepCopy = some r) (h8 : r.lanes.length ≤ 8)
    (hall : ∀ j : Fin 8, j.val < r.lanes.length → s.seq.reports[j] ≠ none) :
    recordsOf s r v (s.seq.recordsOf v s.queue.next) := by
  refine ⟨Sequencer.recordsOf_length_of_lanes v _ hr h8 hall, fun k x l j c hx hl hjk hc => ?_⟩
  have judged := (s.seq.judged_eq r hr h8 hall).2 k l j c hjk hl hc
  unfold Sequencer.recordsOf at hx
  rw [List.getElem?_map, List.getElem?_zipIdx, judged] at hx
  have made := Option.some.inj hx
  rw [← made]
  simp [Sequencer.record, hr]

/-- Without room an attempt is held with its verdict (spec/05 R91). -/
theorem State.askToPost_of_full (v : Verdict) (hr : s.seq.stepCopy = some r) (h1 : 1 ≤ r.lanes.length)
    (h8 : r.lanes.length ≤ 8) (hall : ∀ j : Fin 8, j.val < r.lanes.length → s.seq.reports[j] ≠ none)
    (hfull : 64 < s.queue.records.length + r.lanes.length) :
    s.askToPost v = { s with seq := { s.seq with plan := .held, heldVerdict := some v } } := by
  have count := Sequencer.recordsOf_length_of_lanes v s.queue.next hr h8 hall
  refine State.askToPost_of_not_hasRoom (eq_false_of_ne_true fun hroom => ?_)
  rw [count, ResultQueue.hasRoom_iff h1] at hroom
  omega

/-- With room for the records of all lanes the boundary follows the post (spec/05 R91). -/
theorem State.askToPost_of_room (v : Verdict) (hr : s.seq.stepCopy = some r) (h1 : 1 ≤ r.lanes.length)
    (h8 : r.lanes.length ≤ 8) (hall : ∀ j : Fin 8, j.val < r.lanes.length → s.seq.reports[j] ≠ none)
    (hroom : s.queue.records.length + r.lanes.length ≤ 64) : s.askToPost v = (s.posted v).boundary v := by
  have count := Sequencer.recordsOf_length_of_lanes v s.queue.next hr h8 hall
  refine State.askToPost_of_hasRoom ?_
  rw [count, ResultQueue.hasRoom_iff h1]
  exact hroom

end

/-- A post looks at the link for its notices alone (spec/05 R91). -/
theorem State.withLink_askToPost (i : Interpreter) (x : Transmitter) (v : Verdict) (s : State) :
    ∃ x', (s.withLink i x).askToPost v = (s.askToPost v).withLink i x' := by
  cases room : s.queue.hasRoom (s.seq.recordsOf v s.queue.next).length with
  | true =>
    rw [State.askToPost_of_hasRoom room, State.askToPost_of_hasRoom (s := s.withLink i x) room]
    exact ⟨_, State.withLink_boundary i ((s.withLink i x).posted v).tx v (s.posted v)⟩
  | false =>
    rw [State.askToPost_of_not_hasRoom room, State.askToPost_of_not_hasRoom (s := s.withLink i x) room]
    exact ⟨x, rfl⟩

/-- A post does not look at the requests that wait (spec/05 R91). -/
theorem State.popped_askToPost (rest : List Frame) (v : Verdict) (s : State) :
    (s.popped rest).askToPost v = (s.askToPost v).popped rest := by
  cases room : s.queue.hasRoom (s.seq.recordsOf v s.queue.next).length with
  | true =>
    rw [State.askToPost_of_hasRoom room, State.askToPost_of_hasRoom (s := s.popped rest) room]
    refine (State.withLink_boundary { s.interp with requests := rest } (s.posted v).tx v (s.posted v)).trans ?_
    simp [State.withLink, State.popped, State.posted]
  | false =>
    rw [State.askToPost_of_not_hasRoom room, State.askToPost_of_not_hasRoom (s := s.popped rest) room]
    rfl

/-- A step end does not look at the requests that wait (spec/05 R87). -/
theorem State.popped_endStep (rest : List Frame) (s : State) : (s.popped rest).endStep = s.endStep.popped rest :=
  State.popped_askToPost rest s.seq.verdict { s with seq := { s.seq with stepTimerAt := none } }

end Sys2Proof.Machine
end

section
/-! The end of a step: what the last close leaves, by an edge, by MARK STOP and by FEED (spec/05 R87 to R91). -/

namespace Sys2Proof.Machine

set_option Elab.async false

/-! ### What the step end leaves of the link -/

/-- A step end raises RESULTS at most (spec/05 R87, spec/06 R116). -/
theorem State.endStep_onlyResults (s : State) : s.onlyResults s.endStep :=
  State.askToPost_onlyResults s.seq.verdict { s with seq := { s.seq with stepTimerAt := none } }

/-- A step end keeps the instant (spec/05 R87). -/
theorem State.endStep_now (s : State) : s.endStep.now = s.now := (State.endStep_frame s).1

/-- What `ClosesLast` says of a state depends on the sequencer. -/
theorem ClosesLast.of_seq {s y : State} {r : StepRecord} {why : Fin 8 → Option CloseReason} (h : ClosesLast s r why)
    (hseq : y.seq = s.seq) : ClosesLast y r why :=
  ⟨hseq ▸ h.copy, h.few, h.distinct, hseq ▸ h.missing, h.named, h.closes⟩

/-- The blocks that a command leaves, as `unchangedBut` says it. -/
theorem unchangedBut_of_exec {c : Instr} {s s' : State} {bs : List Block} (h : exec c s = .next s')
    (hsub : touched c ⊆ bs) (hreset : s'.nResetLow = s.nResetLow) : unchangedBut bs s s' := by
  obtain ⟨s'', hs'', -, pending, choices, -⟩ := exec_completes c s
  cases h.symm.trans hs''
  exact ⟨fun b hb => exec_sameBlock h fun hin => hb (hsub hin), hreset, pending, choices⟩

section
variable {f : Frame} {rest : List Frame} {p : List Byte} {a : Attached} {s x s' : State} {t : Nat}

/-- A taking whose rule ends the step from `x` leaves plan, units and queue as the step end does, and raises its notices
(spec/05 R87, R104, spec/06 R116). -/
theorem TakingEnds.stepEnded (h : TakingEnds f rest p a s (x.endStep.popped rest) s' t)
    (hnow : x.now = max s.now t) (hinterp : x.interp = s.interp) (htx : x.tx = s.tx) :
    Machine.stepEnded x s' ∧ Machine.linesNoted { s with now := s'.now } s' (fun n => x.endStep.flags[n]) ∧
      endNoticed x s s' := by
  obtain ⟨interp, tx⟩ := x.endStep_onlyResults
  obtain ⟨start, link, results⟩ := h.notices
  have seq : s'.seq = x.endStep.seq := h.seq
  refine ⟨⟨seq, h.units, h.queue⟩, h.linesNoted (x.endStep_now.trans hnow), results, start.trans ?_, link.trans ?_, ?_⟩
  · show x.endStep.tx.start = s.tx.start
    rw [tx, htx]
  · show x.endStep.tx.link = s.tx.link
    rw [tx, htx]
  · have plan : x.endStep.tx.plan = s.tx.plan := by rw [tx, htx]
    rw [seq]
    split
    · next same => exact (h.planKept same.symm).trans plan
    · next changed =>
      refine h.planRaised (fun e => changed e.symm) plan ?_
      show x.endStep.interp.mask = s.interp.mask
      rw [interp, hinterp]

end

/-! ### A happening that ends the step -/

/-- The PLAN notice at the end of a happening, where TXD is busy (spec/05 R104, spec/09 R172). -/
theorem State.finish_notices {y b : State} (hbusy : y.tx.inFlight ≠ none) :
    (y.finish b).tx.results = y.tx.results ∧ (y.finish b).tx.start = y.tx.start ∧ (y.finish b).tx.link = y.tx.link ∧
      (y.finish b).tx.plan = (y.noticePlan b).tx.plan := by
  have noticed : (y.noticePlan b).tx = { y.tx with plan := (y.noticePlan b).tx.plan } := by
    unfold State.noticePlan State.raisePlan
    split
    · rfl
    · split <;> rfl
  have tx : (y.finish b).tx = (y.noticePlan b).tx := by
    rw [State.finish, State.arbitrate_of_busy]
    · rfl
    · rw [State.noteTargets_tx, noticed]
      exact hbusy
  rw [tx, noticed]
  exact ⟨rfl, rfl, rfl, rfl⟩

/-- A happening that ends the step from `x` leaves plan, units and queue as the step end does, and with TXD busy raises
its notices (spec/05 R87, R104, spec/06 R116). -/
theorem State.finish_stepEnded {s x : State} {t : Nat} (hnow : x.now = max s.now t) (hinterp : x.interp = s.interp)
    (htx : x.tx = s.tx) :
    stepEnded x (x.endStep.finish (s.advance t)) ∧
      linesNoted { s with now := (x.endStep.finish (s.advance t)).now } (x.endStep.finish (s.advance t))
        (fun n => x.endStep.flags[n]) ∧
      (s.tx.inFlight ≠ none → endNoticed x s (x.endStep.finish (s.advance t))) := by
  obtain ⟨-, -, -, -, -, units, seq, queue, -⟩ := State.finish_frame (s.advance t) x.endStep
  refine ⟨⟨seq, units, queue⟩, State.finish_linesNoted (x.endStep_now.trans hnow), fun hbusy => ?_⟩
  obtain ⟨interp, tx⟩ := x.endStep_onlyResults
  rw [htx] at tx
  rw [hinterp] at interp
  have busy : x.endStep.tx.inFlight ≠ none := by
    rw [tx]
    exact hbusy
  obtain ⟨results, start, link, plan⟩ := State.finish_notices (b := s.advance t) busy
  refine ⟨results, start.trans (by rw [tx]), link.trans (by rw [tx]), ?_⟩
  unfold planNoticed
  rw [plan, seq]
  split
  · next same =>
    rw [State.noticePlan_of_same _ (s.advance t) same.symm, tx]
  · next changed =>
    rw [State.noticePlan_of_changed _ (s.advance t) fun e => changed e.symm]
    have plan : x.endStep.tx.plan = s.tx.plan := by rw [tx]
    unfold State.raisePlan
    rw [interp, ← plan]
    split <;> rfl

/-! ### The statement -/

/-- A step end posts the records of its attempt and comes to the boundary, or holds them (spec/05 R87 to R92). -/
theorem endStep_posts_or_holds {s : State} {r : StepRecord} (hr : s.seq.stepCopy = some r) (h1 : 1 ≤ r.lanes.length)
    (h8 : r.lanes.length ≤ 8) (hall : ∀ j : Fin 8, j.val < r.lanes.length → s.seq.reports[j] ≠ none)
    (hstep : s.steps[s.seq.step] ≠ none) :
    (64 < s.queue.records.length + r.lanes.length →
      s.endStep = { s with seq := { s.seq with plan := .held, stepTimerAt := none,
                                               heldVerdict := some s.seq.verdict } }) ∧
    (s.queue.records.length + r.lanes.length ≤ 64 → ∃ rs : List ResultRecord,
      s.endStep.queue = { records := s.queue.records ++ rs, next := s.queue.next + BitVec.ofNat 16 rs.length } ∧
      s.endStep.tx = { s.tx with
        results := resultsNoticed s.queue.records.length rs.length s.queue.next s.interp.mask s.tx.results } ∧
      recordsOf s r s.seq.verdict rs ∧ s.endStep.seq.plan ≠ .held ∧ s.endStep.seq.heldVerdict = none ∧
      ∀ y : State, y = { s with queue := s.endStep.queue, tx := s.endStep.tx,
                                seq := { s.seq with stepTimerAt := none, heldVerdict := none } } →
        s.endStep = y.boundary s.seq.verdict) := by
  let ended : State := { s with seq := { s.seq with stepTimerAt := none } }
  refine ⟨fun hfull => State.askToPost_of_full (s := ended) s.seq.verdict hr h1 h8 hall hfull, fun hroom => ?_⟩
  have posts : s.endStep = (ended.posted s.seq.verdict).boundary s.seq.verdict :=
    State.askToPost_of_room (s := ended) s.seq.verdict hr h1 h8 hall hroom
  obtain ⟨plan, heldVerdict⟩ := State.boundary_plan (s := ended.posted s.seq.verdict) s.seq.verdict hstep
  have queue : s.endStep.queue = (ended.posted s.seq.verdict).queue := by
    rw [posts]
    simp only [State.boundary_frame]
  have tx : s.endStep.tx = (ended.posted s.seq.verdict).tx := by
    rw [posts]
    simp only [State.boundary_frame]
  refine ⟨s.seq.recordsOf s.seq.verdict s.queue.next, queue, tx, recordsOf_of_lanes s.seq.verdict hr h8 hall,
    posts ▸ plan, posts ▸ heldVerdict, fun y hy => ?_⟩
  rw [hy, queue, tx, posts]
  rfl

/-- The effect of an edge that is the last close of its step (spec/03 R39, R45, spec/05 R87). -/
theorem State.receive_of_last {s : State} {u : Fin 8} {b left c : Bound} {e : ProbeEdge} {p : ProbeInput} {r : StepRecord}
    {reason : CloseReason} (h : Receives s u b e left) (hopen : b.phase = .opened)
    (hmode : b.lane.mode = .serial p ∨ b.lane.mode = .parallel p)
    (hclose : (b.lane.stop = .edge { line := e.line, edge := e.kind } ∧ c = left ∧ reason = .stop) ∨
      (b.lane.stop ≠ .edge { line := e.line, edge := e.kind } ∧ p.clock = { line := e.line, edge := e.kind } ∧
        (∀ q, p.qualifier = some q → (s.probes[q.line]).level = q.high) ∧
        c = left.takeSample (((List.finRange 16).filter fun n => p.data.getLsbD n.val).map
          fun n => (s.probes[n]).level) ∧ c.countClose = some reason))
    (hlast : ClosesLast s r (onlyUnit u reason)) (t : Nat) :
    (s.advance t).receive u e left = (((s.advance t).setUnit u c).withClosed (onlyUnit u reason)).endStep := by
  obtain ⟨phase, lane, -⟩ := h.left_frame
  have mode : left.lane.mode = .serial p ∨ left.lane.mode = .parallel p := by rw [lane]; exact hmode
  have effect := Bound.edgeEffect_of_open (s.advance t).levelOf e left p (phase.trans hopen) (probeInput_of_mode mode)
  rw [lane] at effect
  refine Eq.trans ?_ (State.closeUnit_of_last (State.setUnit_unit u c (s.advance t)) (hlast.of_seq rfl))
  obtain ⟨hstop, rfl, rfl⟩ | ⟨hstop, hclock, hqualified, hsample, hcount⟩ := hclose
  · rw [if_pos hstop] at effect
    exact State.receive_of_closes effect
  · rw [if_neg hstop, if_pos ⟨hclock, by exact hqualified⟩] at effect
    refine State.receive_of_last_sample effect ?_ hcount
    rw [Bound.sampleOf_of_mode _ mode, hsample]
    rfl

/-- Settles O29: the post or the hold at the step end, and the last close by an edge, by MARK STOP and by FEED. -/
theorem stepEndPostsAllOrHolds : Obligations.StepEndPostsAllOrHolds := by
  refine ⟨fun s r hr h1 h8 hall hstep => endStep_posts_or_holds hr h1 h8 hall hstep,
    fun t s u b left c e p r reason h hopen hmode hclose hlast => ?edge,
    fun t s f rest m r why h hkind hp hidle hpaused hwhy hlast => ?mark,
    fun t s f rest u n o bytes b c r k reason h hkind hp hlen hn hplan hb hopen hhost hcloses hlast => ?feed⟩
  case edge =>
    have received := State.receive_of_last h hopen hmode hclose hlast t
    have hs' : exec (.edgeReceipt t u e.line e.kind) s = _ :=
      (execEdgeReceipt_of_receives h t).trans (by rw [received])
    obtain ⟨ended, noted, notices⟩ := State.finish_stepEnded (s := s) (t := t)
      (x := ((s.advance t).setUnit u c).withClosed (onlyUnit u reason)) rfl rfl rfl
    refine ⟨_, _, hs', ?_, ended, noted, unchangedBut_of_exec hs' (by simp [touched, ownBlocks, takingOf]) ?_, notices⟩
    · rw [exec_now hs']
      rfl
    · simp only [State.finish_frame, State.endStep_frame]
      rfl
  case mark =>
    have hrow : f.isMarkStop = true := by
      simp [Frame.isMarkStop, Frame.isKind, hkind, ReqKind.ofCode, hp, markKind]
    have goes : ¬(((s.advance t).popped rest).seq.plan.refusesMark = true) := fun hr =>
      (PlanState.refusesMark_iff.mp hr).elim hidle hpaused
    have accepted (u : Fin 8) : u ∈ ((s.advance t).popped rest).accepting m Bound.acceptsStop ↔
        m.getLsbD u.val = true ∧
          (s.units[u]).any (fun b => decide (b.phase = .opened ∧ b.lane.stop = .host)) = true := by
      rw [State.mem_accepting, Option.any_eq_true]
      simp only [Bound.acceptsStop_iff, decide_eq_true_iff]
      rfl
    have reasons (u : Fin 8) :
        why u = if u ∈ ((s.advance t).popped rest).accepting m Bound.acceptsStop then some .stop else none := by
      simp only [hwhy, accepted]
    have closes := State.closeAll_of_last (s := (s.advance t).popped rest) .stop _
      (State.accepting_nodup _ m Bound.acceptsStop) reasons (fun u hu => by
        obtain ⟨-, b, hb, -⟩ := State.mem_accepting.mp hu
        rw [hb]
        exact Option.some_ne_none b) (hlast.of_seq rfl)
    have ends : ((s.advance t).popped rest).withClosed why = ((s.advance t).withClosed why).popped rest := rfl
    rw [ends, State.popped_endStep] at closes
    have body := (congrArg (markStop · ((s.advance t).popped rest)) hp).trans
      ((markStop_of_stop m _).trans ((if_neg goes).trans (congrArg (·, _) closes)))
    obtain ⟨s', hs', answer, settings, taken⟩ := exec_taken_of_onlyResults (c := .markStop t) rfl h hrow body
      (closes ▸ State.closeAll_keeps State.closeUnit_onlyResults .stop _ (State.onlyResults_of_same rfl rfl))
    obtain ⟨ended, noted, notices⟩ := taken.stepEnded rfl rfl rfl
    refine ⟨s', _, _, hs', answer, settings, fun u => ?_, ?_, ended, noted,
      unchangedBut_of_exec hs' (by simp [touched, ownBlocks, takingOf]) ?_, notices⟩
    · rw [unitMask_getLsbD, decide_eq_true_iff, reasons]
      split <;> simp_all
    · rw [exec_now hs']
      rfl
    · rw [taken.nResetLow]
      simp only [State.popped, State.endStep_frame]
      rfl
  case feed =>
    have closes := State.closeUnit_of_last (s := ((s.advance t).popped rest).setUnit u c)
      (State.setUnit_unit u c _) (hlast.of_seq rfl)
    have ends : (((s.advance t).popped rest).setUnit u c).withClosed (onlyUnit u reason) =
      (((s.advance t).setUnit u c).withClosed (onlyUnit u reason)).popped rest := rfl
    rw [ends, State.popped_endStep] at closes
    have body := (congrArg (feed · ((s.advance t).popped rest)) hp).trans
      ((feed_of_open (s := (s.advance t).popped rest) o hlen hn hplan hb hopen hhost).trans
        ((feedUnit_of_closes hhost hcloses).trans (congrArg (·, _) closes)))
    obtain ⟨s', hs', answer, settings, taken⟩ := exec_taken_of_onlyResults (c := .feed t) rfl h
      (by simp [Frame.isKind, hkind, ReqKind.ofCode]) body
      (closes ▸ State.closeUnit_onlyResults _ reason u (State.onlyResults_of_same rfl rfl))
    obtain ⟨ended, noted, notices⟩ := taken.stepEnded rfl rfl rfl
    refine ⟨s', _, hs', answer, settings, ?_, ended, noted,
      unchangedBut_of_exec hs' (by simp [touched, ownBlocks, takingOf]) ?_, notices⟩
    · rw [exec_now hs']
      rfl
    · rw [taken.nResetLow]
      simp only [State.popped, State.endStep_frame]
      rfl

end Sys2Proof.Machine
end

section
/-! ACK RESULTS: the records that leave, and the post of a held attempt (spec/06 R120, R121, spec/05 R92). -/

namespace Sys2Proof.Machine

set_option Elab.async false

/-! ### The rule -/

/-- The state whose queue has lost all records but the newest `d` (spec/06 R121). -/
def State.acked (d : Nat) (s : State) : State := { s with queue := s.queue.remove (s.queue.records.length - d) }

/-- An ACK RESULTS that is not of two bytes is malformed (spec/06 R120). -/
theorem ackResults_of_length {payload : List Byte} (h : payload.length ≠ 2) (s : State) :
    ackResults payload s = (s, .refuse .malformed) := by
  unfold ackResults
  split
  · exact absurd rfl h
  · rfl

section
variable {s : State} {x0 x1 : Byte}

/-- The distance of the sequence that two bytes name (spec/06 R110). -/
theorem ResultQueue.distance_ofLeBytes (q : ResultQueue) (x0 x1 : Byte) :
    q.distance (BitVec.ofNat 16 (ofLeBytes [x0, x1])) =
      (q.next - 1 - BitVec.ofNat 16 (x0.toNat + 256 * x1.toNat)).toNat := by
  rw [ofLeBytes_pair]
  rfl

/-- An ACK RESULTS of a record held (spec/06 R121). -/
theorem ackResults_of_held (h : s.queue.distance (BitVec.ofNat 16 (ofLeBytes [x0, x1])) < s.queue.records.length) :
    ackResults [x0, x1] s =
      ((s.acked (s.queue.distance (BitVec.ofNat 16 (ofLeBytes [x0, x1])))).askAgain,
        .okWith [byteOf (s.queue.records.length - s.queue.distance (BitVec.ofNat 16 (ofLeBytes [x0, x1])))]) :=
  if_pos h

/-- An ACK RESULTS of a record removed before (spec/06 R121). -/
theorem ackResults_of_removed (h : s.queue.records.length ≤ s.queue.distance (BitVec.ofNat 16 (ofLeBytes [x0, x1])))
    (hnear : s.queue.distance (BitVec.ofNat 16 (ofLeBytes [x0, x1])) < 32768) :
    ackResults [x0, x1] s = (s, .okWith [0]) :=
  (if_neg (Nat.not_lt.mpr h)).trans (if_pos hnear)

/-- An ACK RESULTS of a record yet to come (spec/06 R120). -/
theorem ackResults_of_ahead (h : s.queue.records.length ≤ s.queue.distance (BitVec.ofNat 16 (ofLeBytes [x0, x1])))
    (hfar : 32768 ≤ s.queue.distance (BitVec.ofNat 16 (ofLeBytes [x0, x1]))) :
    ackResults [x0, x1] s = (s, .refuse .seqAhead) :=
  (if_neg (Nat.not_lt.mpr h)).trans (if_neg (Nat.not_lt.mpr hfar))

end

/-! ### The records that stay -/

/-- Of the records acknowledged through, the newest stay (spec/06 R121). -/
theorem State.acked_length {s : State} {d : Nat} (h : d < s.queue.records.length) :
    (s.acked d).queue.records.length = d := by
  simp only [State.acked, ResultQueue.remove, List.length_drop]
  omega

/-- Outside HELD the sequencer does not ask again (spec/05 R92). -/
theorem State.askAgain_of_not_held {s : State} (h : s.seq.plan ≠ .held) : s.askAgain = s := by
  unfold State.askAgain
  split
  · next held _ => exact absurd held h
  · rfl

/-- In HELD the sequencer asks again with the verdict it holds (spec/05 R92). -/
theorem State.askAgain_of_held {s : State} {v : Verdict} (h : s.seq.plan = .held) (hv : s.seq.heldVerdict = some v) :
    s.askAgain = s.askToPost v := by
  rw [State.askAgain, h, hv]

/-- The plan condition HELD is of the plan state HELD alone (spec/05 R80). -/
theorem PlanState.condition_held_iff {p : PlanState} : p.condition = PlanState.condition .held ↔ p = .held := by
  cases p <;> decide

/-! ### The statement -/

section
variable {t d : Nat} {s : State} {f : Frame} {rest : List Frame} {x0 x1 : Byte}

/-- The rule of an ACK RESULTS that removes records, at its taking (spec/06 R121). -/
theorem ackResults_taken (hp : f.payload = [x0, x1])
    (hd : d = (s.queue.next - 1 - BitVec.ofNat 16 (x0.toNat + 256 * x1.toNat)).toNat) (h : d < s.queue.records.length) :
    ackResults f.payload ((s.advance t).popped rest) =
      ((((s.advance t).popped rest).acked d).askAgain, .okWith [byteOf (s.queue.records.length - d)]) := by
  have dist : s.queue.distance (BitVec.ofNat 16 (ofLeBytes [x0, x1])) = d :=
    (s.queue.distance_ofLeBytes x0 x1).trans hd.symm
  have body := ackResults_of_held (s := (s.advance t).popped rest) (x0 := x0) (x1 := x1)
    (show s.queue.distance _ < s.queue.records.length by rw [dist]; exact h)
  rw [show ((s.advance t).popped rest).queue.distance (BitVec.ofNat 16 (ofLeBytes [x0, x1])) = d from dist] at body
  rw [hp]
  exact body

/-- An ACK RESULTS outside HELD removes records and does no more (spec/06 R121). -/
theorem ackResults_of_not_held (h : Takes s f rest) (hrow : Frame.isKind .ackResults f = true)
    (hp : f.payload = [x0, x1])
    (hd : d = (s.queue.next - 1 - BitVec.ofNat 16 (x0.toNat + 256 * x1.toNat)).toNat) (hheld : d < s.queue.records.length)
    (hplan : s.seq.plan ≠ .held) :
    ∃ s', exec (.ackResults t) s = .next s' ∧
      answered f rest [0, 0, BitVec.ofNat 8 (s.queue.records.length - d)] s s' ∧ sameSettings s s' ∧ sameNotices s s' ∧
      unchangedBut [.queue, .flags, .interp, .tx] s s' ∧
      s'.queue = { records := s.queue.records.drop (s.queue.records.length - d), next := s.queue.next } ∧
      linesNoted { s with now := s'.now } s' (fun n => s.flags[n]) := by
  have body := ackResults_taken (t := t) (rest := rest) hp hd hheld
  rw [State.askAgain_of_not_held (s := ((s.advance t).popped rest).acked d) hplan] at body
  have reach : reaches [.queue] ((s.advance t).popped rest) (((s.advance t).popped rest).acked d) :=
    ⟨rfl, fun b hb => by cases b <;> simp [sameBlock, State.acked] at hb ⊢, rfl, rfl, rfl⟩
  obtain ⟨s', hs', answer, settings, -, unchanged, ends⟩ := exec_taken (c := .ackResults t) rfl h hrow body reach
    (by decide) (by decide)
  exact ⟨s', hs', answer, settings, ends.sameNotices rfl rfl, unchanged, ends.queue, ends.linesNoted rfl⟩

/-- The state from which a held attempt is posted and the boundary follows, told without the link (spec/05 R92). -/
theorem State.posted_acked (v : Verdict) :
    ((((s.advance t).popped rest).acked d).posted v) =
      State.withLink { s.interp with requests := rest } ((((s.advance t).popped rest).acked d).posted v).tx
        { s with
          now := max s.now t
          queue := ((((s.advance t).popped rest).acked d).posted v).queue
          seq := { s.seq with heldVerdict := none } } := rfl

/-- An ACK RESULTS in HELD makes the sequencer ask again (spec/05 R92, spec/06 R121). -/
theorem ackResults_in_held {v : Verdict} (h : Takes s f rest)
    (hrow : Frame.isKind .ackResults f = true) (hp : f.payload = [x0, x1])
    (hd : d = (s.queue.next - 1 - BitVec.ofNat 16 (x0.toNat + 256 * x1.toNat)).toNat) (hheld : d < s.queue.records.length)
    (hplan : s.seq.plan = .held) (hv : s.seq.heldVerdict = some v) :
    ∃ s', exec (.ackResults t) s = .next s' ∧
      answered f rest [0, 0, BitVec.ofNat 8 (s.queue.records.length - d)] s s' ∧ sameSettings s s' ∧
      unchangedBut [.seq, .units, .queue, .flags, .interp, .tx] s s' ∧
      TakingEnds f rest [0, 0, BitVec.ofNat 8 (s.queue.records.length - d)] .nothing s
        ((((s.advance t).popped rest).acked d).askToPost v) s' t := by
  have body := ackResults_taken (t := t) (rest := rest) hp hd hheld
  have asks := State.askAgain_of_held (s := ((s.advance t).popped rest).acked d) hplan hv
  rw [asks] at body
  obtain ⟨s', hs', answer, settings, ends⟩ := exec_taken_of_onlyResults (c := .ackResults t) rfl h hrow body
    (State.askToPost_onlyResults v (((s.advance t).popped rest).acked d))
  refine ⟨s', hs', answer, settings, unchangedBut_of_exec hs' (by simp [touched, ownBlocks, takingOf]) ?_, ends⟩
  rw [ends.nResetLow, ← asks]
  exact (State.askAgain_touches _).2.2.1

end

/-- Settles O36: the checks by distance, the records that leave, and the post of a held attempt. -/
theorem ackResultsRemovesThrough : Obligations.AckResultsRemovesThrough := by
  refine ⟨fun t s f rest h hkind => ?checks,
    fun t s f rest x0 x1 d r v h hkind hp hd hheld hplan hv hr h1 h8 hall hstep => ?held⟩
  all_goals have hrow : Frame.isKind .ackResults f = true := by simp [Frame.isKind, hkind, ReqKind.ofCode]
  case checks =>
    refine ⟨fun hlen => exec_answeredOnly (r := .refuse .malformed) rfl h hrow (ackResults_of_length hlen _) rfl,
      fun x0 x1 d hp hd => ⟨fun hc hnear => ?_, fun hc hfar => ?_, fun hc hplan =>
        ackResults_of_not_held h hrow hp hd hc hplan⟩⟩
    all_goals have dist := (s.queue.distance_ofLeBytes x0 x1).trans hd.symm
    · exact exec_answeredOnly (r := .okWith [0]) rfl h hrow
        (hp ▸ ackResults_of_removed (s := (s.advance t).popped rest) (dist.symm ▸ hc) (dist.symm ▸ hnear)) rfl
    · exact exec_answeredOnly (r := .refuse .seqAhead) rfl h hrow
        (hp ▸ ackResults_of_ahead (s := (s.advance t).popped rest) (dist.symm ▸ hc) (dist.symm ▸ hfar)) rfl
  case held =>
    obtain ⟨s', hs', answer, settings, unchanged, ends⟩ := ackResults_in_held (t := t) h hrow hp hd hheld hplan hv
    have stays : (((s.advance t).popped rest).acked d).queue.records.length = d := State.acked_length hheld
    have now : s'.now = max s.now t := exec_now hs'
    obtain ⟨start, link, results⟩ := ends.notices
    refine ⟨s', hs', answer, settings, unchanged, fun hfull => ?full, fun hroom => ?room⟩
    case full =>
      have full := State.askToPost_of_full (s := ((s.advance t).popped rest).acked d) v hr h1 h8 hall
        (by rw [stays]; exact hfull)
      rw [full] at ends
      refine ⟨ends.seq.trans ?_, ends.units, ends.sameNotices rfl ?_, ends.queue⟩
      · show { s.seq with plan := .held, heldVerdict := some v } = s.seq
        rw [← hplan, ← hv]
      · rw [hplan]
    case room =>
      have posts := State.askToPost_of_room (s := ((s.advance t).popped rest).acked d) v hr h1 h8 hall
        (by rw [stays]; exact hroom)
      have records := recordsOf_of_lanes (s := ((s.advance t).popped rest).acked d) v hr h8 hall
      obtain ⟨plan, heldVerdict⟩ := State.boundary_plan
        (s := (((s.advance t).popped rest).acked d).posted v) v hstep
      rw [posts] at ends start link results
      obtain ⟨bnow, -, -, -, -, bqueue, -, binterp, btx, -⟩ :=
        State.boundary_frame v ((((s.advance t).popped rest).acked d).posted v)
      have queue : s'.queue = ((((s.advance t).popped rest).acked d).posted v).queue := ends.queue.trans bqueue
      have changed : s.seq.plan.condition ≠
          (((((s.advance t).popped rest).acked d).posted v).boundary v).seq.plan.condition := by
        rw [hplan]
        exact fun e => plan (PlanState.condition_held_iff.mp e.symm)
      refine ⟨by rw [ends.seq]; exact plan, by rw [ends.seq]; exact heldVerdict, _, records, queue, ?_,
        ends.planRaised changed (by rw [btx]; rfl) (by rw [binterp]; rfl), start.trans (by rw [btx]; rfl),
        link.trans (by rw [btx]; rfl), fun y hy => ?_⟩
      · rw [results, btx]
        show resultsNoticed (((s.advance t).popped rest).acked d).queue.records.length _ _ _ _ = _
        rw [stays]
        rfl
      · have linked := State.posted_acked (t := t) (d := d) (s := s) (rest := rest) v
        rw [← queue, ← now, ← hy] at linked
        have bounds := (congrArg (State.boundary v) linked).trans (State.withLink_boundary _ _ v y)
        rw [bounds] at ends
        exact ⟨ends.seq, ends.units, ends.linesNoted (bounds ▸ bnow)⟩

end Sys2Proof.Machine
end

section
/-! The commands of the flag lines: what each leaves of the line it speaks of (spec/07 R128 to R132). -/

namespace Sys2Proof.Machine

set_option Elab.async false

/-! ### The stretcher as the statements say it -/

/-- The stretcher takes a target as R129 says it. -/
theorem FlagLine.take_eq (now : Nat) (v : Bool) (f : FlagLine) : f.take now v = targetTaken now v f := by
  have stands : (f.holdRunning now || f.output == v) = true ↔ (∃ h, f.holdEnd = some h ∧ now < h) ∨ f.output = v := by
    simp [FlagLine.holdRunning, Option.any_eq_true]
  by_cases h : (∃ h, f.holdEnd = some h ∧ now < h) ∨ f.output = v
  · exact (if_pos (stands.mpr h)).trans (if_pos h).symm
  · exact (if_neg fun e => h (stands.mp e)).trans (if_neg h).symm

/-- The changes that wait are taken in turn as R129 says it. -/
theorem FlagLine.takeAll_eq (now : Nat) (f : FlagLine) :
    f.takeAll now = f.changes.foldl (fun g v => targetTaken now v g) { f with changes := [] } := by
  have step : (fun g v => FlagLine.take now v g) = fun g v => targetTaken now v g :=
    funext fun g => funext fun v => g.take_eq now v
  unfold FlagLine.takeAll
  rw [step]

/-- A target taken reaches target, output and hold end. -/
theorem targetTaken_frame (now : Nat) (v : Bool) (f : FlagLine) :
    targetTaken now v f = { f with
      target := (targetTaken now v f).target
      output := (targetTaken now v f).output
      holdEnd := (targetTaken now v f).holdEnd } := by
  unfold targetTaken
  split <;> rfl

/-- Targets taken in turn reach target, output and hold end. -/
theorem foldl_targetTaken_frame (now : Nat) (vs : List Bool) (f : FlagLine) :
    vs.foldl (fun g v => targetTaken now v g) f = { f with
      target := (vs.foldl (fun g v => targetTaken now v g) f).target
      output := (vs.foldl (fun g v => targetTaken now v g) f).output
      holdEnd := (vs.foldl (fun g v => targetTaken now v g) f).holdEnd } := by
  induction vs generalizing f with
  | nil => rfl
  | cons v vs ih =>
    rw [List.foldl_cons, ih, targetTaken_frame now v f]

/-- A command of one line leaves the other lines and all other blocks. -/
theorem unchangedBut_setFlag (t : Nat) (n : Fin 4) (g : FlagLine) (s : State) :
    unchangedBut [.flags] s { s.advance t with flags := s.flags.set n g } ∧
      (∀ m : Fin 4, m ≠ n → ({ s.advance t with flags := s.flags.set n g } : State).flags[m] = s.flags[m]) ∧
      ({ s.advance t with flags := s.flags.set n g } : State).flags[n] = g := by
  refine ⟨⟨fun b hb => by cases b <;> simp [sameBlock, State.advance] at hb ⊢, rfl, rfl, rfl⟩, fun m hm => ?_, ?_⟩
  · exact (getElem_set_fin s.flags n m g).trans (if_neg hm)
  · exact (getElem_set_fin s.flags n n g).trans (if_pos rfl)

/-- A command of one line that leaves the line does nothing. -/
theorem setFlag_self (t : Nat) (n : Fin 4) (s : State) :
    ({ s.advance t with flags := s.flags.set n s.flags[n] } : State) = s.advance t := by
  rw [show s.flags.set n s.flags[n] = s.flags from Vector.set_getElem_self n.isLt]
  rfl

/-! ### TARGET_CHANGE and HOLD_END -/

/-- A hold that ends lets the output take the target, with a new hold (spec/07 R129 rows 3 and 4). -/
theorem FlagLine.endHold_of_due {now h : Nat} {f : FlagLine} (hf : f.holdEnd = some h) (hdue : h ≤ now) :
    f.endHold now =
      if f.target = f.output then { f with holdEnd := none }
      else { f with output := f.target, holdEnd := if f.width = 0 then none else some (now + micros f.width) } := by
  rw [FlagLine.endHold, hf]
  refine (if_pos hdue).trans ?_
  simp only [FlagLine.stretch, FlagLine.holdRunning, Option.any_none, Bool.false_or, beq_iff_eq, eq_comm (a := f.output)]

/-- Settles O37: both commands set one line, which follows R129. -/
theorem stretcherFollowsTarget : Obligations.StretcherFollowsTarget := by
  refine ⟨fun t n s => ⟨fun hnone => ?_, fun v more hmore => ?_⟩,
    fun t n s => ⟨fun hnone => ?_, fun h hhold => ⟨fun hearly => ?_, fun hdue => ?_⟩⟩⟩
  · have none : (s.flags[n]).takeChange (max s.now t) = s.flags[n] := by rw [FlagLine.takeChange, hnone]
    exact congrArg Host.Outcome.next ((congrArg (fun g => ({ s.advance t with flags := s.flags.set n g } : State)) none).trans
      (setFlag_self t n s))
  · obtain ⟨unchanged, others, line⟩ := unchangedBut_setFlag t n ((s.flags[n]).takeChange (max s.now t)) s
    refine ⟨_, rfl, unchanged, others, line.trans ?_⟩
    rw [FlagLine.takeChange, hmore]
    exact FlagLine.take_eq _ v _
  · have none : (s.flags[n]).endHold (max s.now t) = s.flags[n] := by rw [FlagLine.endHold, hnone]
    exact congrArg Host.Outcome.next ((congrArg (fun g => ({ s.advance t with flags := s.flags.set n g } : State)) none).trans
      (setFlag_self t n s))
  · have early : (s.flags[n]).endHold (max s.now t) = s.flags[n] := by
      rw [FlagLine.endHold, hhold]
      exact if_neg (Nat.not_le.mpr hearly)
    exact congrArg Host.Outcome.next ((congrArg (fun g => ({ s.advance t with flags := s.flags.set n g } : State)) early).trans
      (setFlag_self t n s))
  · obtain ⟨unchanged, others, line⟩ := unchangedBut_setFlag t n ((s.flags[n]).endHold (max s.now t)) s
    exact ⟨_, rfl, unchanged, others, line.trans (FlagLine.endHold_of_due hhold hdue)⟩

/-! ### PULSE_END -/

/-- A line of a pulse source shows its invert when its pulse is over (spec/07 R126). -/
theorem State.targetOf_pulseOver (s : State) {f : FlagLine} (h : f.source = .stepEnd ∨ f.source = .fail) :
    s.targetOf { f with pulseEnd := none } = f.invert := by
  unfold State.targetOf State.sourceValue
  rcases h with h | h <;> simp [h]

/-- A pulse that ends: the changes that wait come first, then the source value 0 (spec/07 R128). -/
theorem State.endPulse_of_due {s : State} {f : FlagLine} {e : Nat} (hf : f.pulseEnd = some e) (hdue : e ≤ s.now)
    (hsource : f.source = .stepEnd ∨ f.source = .fail) :
    s.endPulse f = targetTaken s.now f.invert
      { f.changes.foldl (fun g v => targetTaken s.now v g) { f with changes := [] } with pulseEnd := none } := by
  have settles : s.endPulse f = s.settleFlag { f.takeAll s.now with pulseEnd := none } := by
    rw [State.endPulse, hf]
    exact if_pos hdue
  rw [settles, State.settleFlag, FlagLine.take_eq, FlagLine.takeAll_eq]
  have frame := foldl_targetTaken_frame s.now f.changes { f with changes := [] }
  generalize f.changes.foldl _ _ = g at frame ⊢
  have source : g.source = f.source := by rw [frame]
  have invert : g.invert = f.invert := by rw [frame]
  have changes : g.changes = [] := by rw [frame]
  rw [s.targetOf_pulseOver (source ▸ hsource), ← invert, ← changes]

/-- Settles O38: PULSE_END sets one line, and a boundary's triggers set the pulse ends of their sources. -/
theorem pulsesRunFromTriggerToEnd : Obligations.PulsesRunFromTriggerToEnd := by
  refine ⟨fun t n s => ⟨fun hnone => ?_, fun e he => ⟨fun hearly => ?_, fun hdue hsource => ?_⟩⟩, fun s v n => ?_⟩
  · have none : (s.advance t).endPulse s.flags[n] = s.flags[n] := by rw [State.endPulse, hnone]
    exact congrArg Host.Outcome.next ((congrArg (fun g => ({ s.advance t with flags := s.flags.set n g } : State)) none).trans
      (setFlag_self t n s))
  · have early : (s.advance t).endPulse s.flags[n] = s.flags[n] := by
      rw [State.endPulse, he]
      exact if_neg (Nat.not_le.mpr hearly)
    exact congrArg Host.Outcome.next ((congrArg (fun g => ({ s.advance t with flags := s.flags.set n g } : State)) early).trans
      (setFlag_self t n s))
  · obtain ⟨unchanged, others, line⟩ := unchangedBut_setFlag t n ((s.advance t).endPulse s.flags[n]) s
    exact ⟨_, rfl, unchanged, others, line.trans (State.endPulse_of_due he hdue hsource)⟩
  · exact State.boundaryPulses_line v s n

/-! ### SET FLAG -/

/-- A SET FLAG that is not of five bytes is malformed (spec/07 R131). -/
theorem setFlag_of_length {payload : List Byte} (h : payload.length ≠ 5) (s : State) :
    setFlag payload s = (s, .refuse .malformed) := by
  unfold setFlag
  split
  · exact absurd rfl h
  · rfl

/-- The source code of a SET FLAG is its place in the list of R131. -/
theorem flagSourceOf_eq (n : Nat) :
    flagSourceOf n = [FlagSource.host, .pattern, .active, .window, .stepEnd, .fail, .pending, .held][n]? := by
  match n with
  | 0 | 1 | 2 | 3 | 4 | 5 | 6 | 7 => rfl
  | n + 8 => rfl

/-- A SET FLAG of a source code above 7 (spec/07 R131). -/
theorem setFlag_of_range {mask src o w0 w1 : Byte} (h : 7 < src.toNat) (s : State) :
    setFlag [mask, src, o, w0, w1] s = (s, .refuse .range) := by
  have none : flagSourceOf src.toNat = none := by
    rw [flagSourceOf_eq]
    exact List.getElem?_eq_none h
  unfold setFlag
  dsimp only
  rw [none]

/-- An accepted SET FLAG gives the named lines their settings (spec/07 R131). -/
theorem setFlag_of_source {mask src o w0 w1 : Byte} {x : FlagSource} (h : flagSourceOf src.toNat = some x) (s : State) :
    setFlag [mask, src, o, w0, w1] s =
      (s.withLines fun n => if mask.getLsbD n.val then
          s.setFlagLine x (o.getLsbD 0) (w0.toNat + 256 * w1.toNat) (o.getLsbD 1) s.flags[n] else s.flags[n],
        .okWith []) := by
  unfold setFlag
  dsimp only
  rw [h, ofLeBytes_pair]
  rfl

/-- The settings a SET FLAG gives a line (spec/07 R131 steps 1 to 4). -/
def settingsGiven (idle : Bool) (x : FlagSource) (inv : Bool) (w : Nat) (rest : Bool) (f : FlagLine) : FlagLine :=
  { f with
    source := x
    invert := inv
    width := w
    restLevel := rest
    patternLevel := if idle = true then rest else f.patternLevel
    pulseEnd := if f.source = x then f.pulseEnd else none }

section
variable {s : State} {x : FlagSource} {inv : Bool} {w : Nat} {rest : Bool} {f : FlagLine}

/-- A line that keeps its source keeps what waits, turned with invert (spec/07 R131). -/
theorem State.setFlagLine_of_same (hsource : f.source = x) (hgoes : x = .pattern → s.seq.plan ≠ .idle) :
    s.setFlagLine x inv w rest f = targetTaken s.now (f.target ^^ (f.invert ^^ inv))
      { settingsGiven (s.seq.plan = .idle) x inv w rest f with
        changes := f.changes.map fun c => c ^^ (f.invert ^^ inv) } := by
  refine (if_pos hsource).trans ((if_neg fun h => hgoes h.1 h.2).trans ?_)
  rw [← FlagLine.take_eq]
  simp only [settingsGiven, decide_eq_true_iff]
  rfl

/-- A PATTERN line in IDLE handles what waits, and then its new target (spec/07 R131). -/
theorem State.setFlagLine_of_pattern (hsource : f.source = x) (hx : x = .pattern) (hidle : s.seq.plan = .idle) :
    s.setFlagLine x inv w rest f =
      targetTaken s.now (s.targetOf (settingsGiven (s.seq.plan = .idle) x inv w rest f))
        { settingsGiven (s.seq.plan = .idle) x inv w rest f with
          target := (f.changes.foldl (fun h v => targetTaken s.now v h) { f with changes := [] }).target
          output := (f.changes.foldl (fun h v => targetTaken s.now v h) { f with changes := [] }).output
          holdEnd := (f.changes.foldl (fun h v => targetTaken s.now v h) { f with changes := [] }).holdEnd
          changes := [] } := by
  refine (if_pos hsource).trans ((if_pos ⟨hx, hidle⟩).trans ?_)
  rw [State.settleFlag, FlagLine.take_eq, FlagLine.takeAll_eq]
  have frame := foldl_targetTaken_frame s.now f.changes { f with changes := [] }
  generalize f.changes.foldl _ _ = g at frame ⊢
  rw [frame]
  simp only [settingsGiven, decide_eq_true_iff]
  exact congrArg (fun v => targetTaken s.now v _) (s.targetOf_line rfl rfl rfl rfl rfl)

/-- A line of another source takes the target of its new source value (spec/07 R131). -/
theorem State.setFlagLine_of_other (hsource : f.source ≠ x) :
    s.setFlagLine x inv w rest f =
      targetTaken s.now (s.targetOf (settingsGiven (s.seq.plan = .idle) x inv w rest f))
        { settingsGiven (s.seq.plan = .idle) x inv w rest f with changes := [] } := by
  refine (if_neg hsource).trans ?_
  rw [State.settleFlag, FlagLine.take_eq]
  simp only [settingsGiven, decide_eq_true_iff]

end

/-- Settles O39: the checks, and the settings of each named line by its source before and after. -/
theorem setFlagConfiguresLines : Obligations.SetFlagConfiguresLines := by
  intro t s f rest h hkind
  have hrow : Frame.isKind .setFlag f = true := by simp [Frame.isKind, hkind, ReqKind.ofCode]
  refine ⟨fun hlen => exec_answeredOnly (r := .refuse .malformed) rfl h hrow (setFlag_of_length hlen _) rfl,
    fun mask src o w0 w1 hp => ⟨fun hrange => exec_answeredOnly (r := .refuse .range) rfl h hrow
      (hp ▸ setFlag_of_range hrange _) rfl, fun x hx => ?_⟩⟩
  have body := (congrArg (setFlag · ((s.advance t).popped rest)) hp).trans
    (setFlag_of_source (mask := mask) (o := o) (w0 := w0) (w1 := w1) ((flagSourceOf_eq src.toNat).trans hx) _)
  obtain ⟨s', hs', answer, settings, -, unchanged, ends⟩ := exec_taken (c := .setFlag t) rfl h hrow body
    (reaches_of_rule setFlag_touches body) (by decide) (by decide)
  have now : s'.now = max s.now t := exec_now hs'
  have target (g : FlagLine) : s'.targetOf g = ((s.advance t).popped rest).targetOf g :=
    State.targetOf_congr now (congrArg Sequencer.plan ends.seq) ends.units ends.queue g
  refine ⟨s', hs', answer, settings, ends.sameNotices rfl rfl, unchanged.mono (by decide),
    (ends.linesNoted rfl).congr fun n => ?_⟩
  refine (getElem_ofFn_fin _ n).trans ?_
  split
  · dsimp only
    split
    · next same =>
      rw [now]
      refine (State.setFlagLine_of_same (s := (s.advance t).popped rest) same.1 same.2).trans ?_
      simp only [settingsGiven, decide_eq_true_iff]
      rfl
    · next goes =>
      split
      · next same =>
        obtain ⟨hx, hidle⟩ : x = .pattern ∧ s.seq.plan = .idle := by
          by_contra hno
          exact goes ⟨same, fun hpat hidle => hno ⟨hpat, hidle⟩⟩
        rw [target, now]
        refine (State.setFlagLine_of_pattern (s := (s.advance t).popped rest) same hx hidle).trans ?_
        simp only [settingsGiven, decide_eq_true_iff, if_pos same]
        rfl
      · next other =>
        rw [target, now]
        refine (State.setFlagLine_of_other (s := (s.advance t).popped rest) other).trans ?_
        simp only [settingsGiven, decide_eq_true_iff, if_neg other]
        rfl
  · rfl

/-! ### DRIVE FLAGS -/

/-- A DRIVE FLAGS that is not of two bytes is malformed (spec/07 R132). -/
theorem driveFlags_of_length {payload : List Byte} (h : payload.length ≠ 2) (s : State) :
    driveFlags payload s = (s, .refuse .malformed) := by
  unfold driveFlags
  split
  · exact absurd rfl h
  · rfl

/-- An accepted DRIVE FLAGS drives the named lines (spec/07 R132). -/
theorem driveFlags_of_masks (mask levels : Byte) (s : State) :
    driveFlags [mask, levels] s =
      (s.withLines fun n => if mask.getLsbD n.val then s.driveLine (levels.getLsbD n.val) s.flags[n] else s.flags[n],
        .okWith []) := rfl

/-- A line of source HOST takes its host level through the stretcher (spec/07 R132). -/
theorem State.driveLine_of_host {s : State} {f : FlagLine} (v : Bool) (h : f.source = .host) :
    s.driveLine v f = targetTaken s.now (v ^^ f.invert) { f with hostLevel := v, changes := [] } := by
  refine (if_pos h).trans ?_
  rw [State.settleFlag, FlagLine.take_eq]
  refine congrArg (targetTaken s.now · _) ?_
  simp [State.targetOf, State.sourceValue, h]

/-- A driven line of source HOST has no change of target to note: its latest target is the one it has taken
(spec/07 R126, R132). -/
theorem State.driveLine_latest {s : State} {f : FlagLine} (v : Bool) (h : f.source = .host) :
    (s.driveLine v f).latest = s.targetOf (s.driveLine v f) := by
  have settles : s.driveLine v f = s.settleFlag { f with hostLevel := v } := if_pos h
  have source : (s.settleFlag { f with hostLevel := v }).source = .host :=
    (FlagLine.take_frame s.now _ { f with hostLevel := v, changes := [] }).1.trans h
  rw [settles]
  refine s.settleFlag_follows { f with hostLevel := v } ?_
  rw [source]
  exact ⟨FlagSource.noConfusion, FlagSource.noConfusion⟩

/-- A line of another source keeps its target when it is driven (spec/07 R126, R132). -/
theorem State.targetOf_driveLine {s : State} {f : FlagLine} (v : Bool) (h : f.source ≠ .host) :
    s.targetOf (s.driveLine v f) = s.targetOf f := by
  have driven : s.driveLine v f = { f with hostLevel := v } := if_neg h
  rw [driven]
  unfold State.targetOf State.sourceValue
  cases hsource : f.source
  case host => exact absurd hsource h
  all_goals rfl

/-- A line that shows its target as the latest one, or whose target stands, notes nothing (spec/07 R126). -/
theorem linesNoted.line_of_shown {before s' : State} {g : Fin 4 → FlagLine} (h : linesNoted before s' g) (n : Fin 4)
    (hn : (g n).latest = s'.targetOf (g n) ∨ before.targetOf before.flags[n] = s'.targetOf (g n)) :
    s'.flags[n] = g n := by
  have line := h n
  split at line
  · exact line
  · next changed =>
    rcases hn with latest | stands
    · exact line.trans (if_pos latest)
    · exact absurd stands changed

/-- Settles O40: the check, and the host level of each named line. -/
theorem driveFlagsSetsHostLevels : Obligations.DriveFlagsSetsHostLevels := by
  intro t s f rest h hkind
  have hrow : Frame.isKind .driveFlags f = true := by simp [Frame.isKind, hkind, ReqKind.ofCode]
  refine ⟨fun hlen => exec_answeredOnly (r := .refuse .malformed) rfl h hrow (driveFlags_of_length hlen _) rfl,
    fun mask levels hp => ?_⟩
  have body := (congrArg (driveFlags · ((s.advance t).popped rest)) hp).trans (driveFlags_of_masks mask levels _)
  obtain ⟨s', hs', answer, settings, -, unchanged, ends⟩ := exec_taken (c := .driveFlags t) rfl h hrow body
    (reaches_of_rule driveFlags_touches body) (by decide) (by decide)
  have now : s'.now = max s.now t := exec_now hs'
  have target (g : FlagLine) : s'.targetOf g = ((s.advance t).popped rest).targetOf g :=
    State.targetOf_congr now (congrArg Sequencer.plan ends.seq) ends.units ends.queue g
  refine ⟨s', hs', answer, settings, ends.sameNotices rfl rfl, unchanged.mono (by decide), fun n => ?_⟩
  have driven (g : Fin 4 → FlagLine) : (((s.advance t).popped rest).withLines g).flags[n] = g n := getElem_ofFn_fin g n
  refine (linesNoted.line_of_shown ends.lines n ?_).trans ((driven _).trans ?_)
  · rw [driven, target]
    split
    · by_cases hhost : (s.flags[n]).source = .host
      · exact .inl (State.driveLine_latest _ hhost)
      · exact .inr (State.targetOf_driveLine (s := (s.advance t).popped rest) _ hhost).symm
    · exact .inr rfl
  · rw [now]
    refine if_congr Iff.rfl ?_ rfl
    split
    · next hhost => exact State.driveLine_of_host _ hhost
    · next hother => exact if_neg hother

end Sys2Proof.Machine
end

section
/-! The receiver at work: frame assembly byte by byte, characters, low levels and the gap timer (spec/08 8.1 to 8.4). -/

namespace Sys2Proof.Machine

set_option Elab.async false

/-! ### LINK notices -/

/-- A LINK notice raised, as R146 says it. -/
theorem State.raiseLink_eq (r : LinkReason) (s : State) :
    s.raiseLink r = { s with tx := { s.tx with link := linkRaised r s.interp.mask s.tx.link } } := by
  have reasons : BitVec.twoPow 8 r.code =
      1 <<< [LinkReason.gap, .length, .check, .framing, .unexpected, .recovery].idxOf r := by
    cases r <;> rfl
  unfold State.raiseLink linkRaised
  split
  · rw [← reasons]
    rfl
  · rfl

/-- A LINK notice raised before the arbiter's choice. -/
theorem linkNoticed_of_raised {s x : State} (r : LinkReason) (htx : x.tx = s.tx) (hinterp : x.interp = s.interp) :
    linkNoticed r s (x.raiseLink r).arbitrate := by
  refine State.arbitrate_sentFrom (x.raiseLink r) _ ?_
  rw [State.raiseLink_eq, htx, hinterp]

/-- A happening of the link changes no target and no plan condition: at its end the arbiter chooses (spec/09 R172). -/
theorem State.finish_of_link {x b : State} (hnow : x.now = b.now) (hseq : x.seq = b.seq) (hunits : x.units = b.units)
    (hqueue : x.queue = b.queue) (hflags : x.flags = b.flags) : x.finish b = x.arbitrate := by
  have plan : b.seq.plan = x.seq.plan := by rw [hseq]
  rw [State.finish, State.noticePlan_of_same x b (by rw [plan]),
    State.noteTargets_of_same x b fun n => by
      rw [hflags, State.targetOf_congr hnow.symm plan hunits.symm hqueue.symm]]

/-- A happening that reaches the receiver alone and raises LINK (spec/08 R146). -/
theorem State.raiseLink_finish {s x : State} {t : Nat} (r : LinkReason) (hx : reaches [.rx] (s.advance t) x) :
    ((x.raiseLink r).finish (s.advance t)).rx = x.rx ∧ linkNoticed r s ((x.raiseLink r).finish (s.advance t)) ∧
      unchangedBut [.rx, .tx] s ((x.raiseLink r).finish (s.advance t)) := by
  obtain ⟨now, blocks, reset, pending, choices⟩ := hx
  have ends : (x.raiseLink r).finish (s.advance t) = (x.raiseLink r).arbitrate := by
    refine State.finish_of_link ?_ ?_ ?_ ?_ ?_
    all_goals simp only [State.raiseLink_frame]
    exacts [now, blocks .seq (by decide), blocks .units (by decide), blocks .queue (by decide),
      blocks .flags (by decide)]
  rw [ends]
  refine ⟨by simp only [State.arbitrate_frame, State.raiseLink_frame],
    linkNoticed_of_raised r (blocks .tx (by decide)) (blocks .interp (by decide)), fun b hb => ?_, ?_, ?_, ?_⟩
  · have same := blocks b fun h => hb (by simp_all)
    cases b <;> simp [sameBlock] at hb same ⊢ <;> exact same
  all_goals simp only [State.arbitrate_frame, State.raiseLink_frame]
  exacts [reset, pending, choices]

/-- The receiver alone has changed. -/
theorem reaches_of_rx (x : Receiver) (s : State) : reaches [.rx] s { s with rx := x } :=
  ⟨rfl, fun b hb => by cases b <;> simp [sameBlock] at hb ⊢, rfl, rfl, rfl⟩

/-- The receiver alone has changed since before the happening. -/
theorem unchangedBut_of_rx (x : Receiver) (t : Nat) (s : State) : unchangedBut [.rx] s { s.advance t with rx := x } :=
  ⟨fun b hb => by cases b <;> simp [sameBlock, State.advance] at hb ⊢, rfl, rfl, rfl⟩

/-! ### Frame assembly, byte by byte -/

section
variable {s : State} {b : Byte}

/-- In HUNT a byte begins a frame, or is dropped (spec/08 R139). -/
theorem State.assemble_of_hunt (h : s.rx.state = .hunt) :
    s.assemble b = if b = 0xC5 then s.rxTo (.header [] 0xFFFF) else s := by
  rw [State.assemble, h]
  rfl

/-- A LEN above 248 is a LENGTH fault (spec/08 R140). -/
theorem State.assemble_of_length {crc : Word32} (h : s.rx.state = .header [] crc) (hlen : 248 < b.toNat) :
    s.assemble b = s.linkFault .length := by
  rw [State.assemble, h]
  exact if_pos hlen

/-- A header byte before the last joins the header (spec/08 R140). -/
theorem State.assemble_of_header {got : List Byte} {crc : Word32} (h : s.rx.state = .header got crc)
    (hgot : got.length < 3) (hlen : got = [] → b.toNat ≤ 248) :
    s.assemble b = s.rxTo (.header (got ++ [b]) (foldByte fixed14 crc b)) := by
  rw [State.assemble, h]
  match got with
  | [] => exact if_neg (Nat.not_lt.mpr (hlen rfl))
  | [_] => rfl
  | [_, _] => rfl
  | _ :: _ :: _ :: _ => exact absurd hgot (by simp)

/-- The last header byte ends the header (spec/08 R140). -/
theorem State.assemble_of_ctrl {len tag kind : Byte} {crc : Word32} (h : s.rx.state = .header [len, tag, kind] crc) :
    s.assemble b = s.rxTo (if len = 0 then
      .check { len := 0, tag := tag, kind := kind, ctrl := b } [] (foldByte fixed14 crc b) none
      else .body { len := len.toNat, tag := tag, kind := kind, ctrl := b } [] (foldByte fixed14 crc b)) := by
  have empty : len.toNat = 0 ↔ len = 0 := by rw [← BitVec.toNat_inj]; rfl
  rw [State.assemble, h]
  by_cases hlen : len = 0
  · refine (if_pos (empty.mpr hlen)).trans ?_
    rw [if_pos hlen, hlen]
    rfl
  · refine (if_neg fun e => hlen (empty.mp e)).trans ?_
    rw [if_neg hlen]

/-- A payload byte joins the payload, and the last ends it (spec/08 R141). -/
theorem State.assemble_of_body {h : Header} {payload : List Byte} {crc : Word32}
    (hs : s.rx.state = .body h payload crc) :
    s.assemble b = s.rxTo (if payload.length + 1 < h.len then .body h (payload ++ [b]) (foldByte fixed14 crc b)
      else .check h (payload ++ [b]) (foldByte fixed14 crc b) none) := by
  rw [State.assemble, hs]
  have grown : (payload ++ [b]).length = payload.length + 1 := by simp
  unfold State.takeBody
  dsimp only
  rw [grown]
  split <;> split
  · omega
  · rfl
  · rfl
  · omega

/-- The first check byte is kept (spec/08 R142). -/
theorem State.assemble_of_first {h : Header} {payload : List Byte} {crc : Word32}
    (hs : s.rx.state = .check h payload crc none) : s.assemble b = s.rxTo (.check h payload crc (some b)) := by
  rw [State.assemble, hs]

/-- The second check byte ends the frame (spec/08 R142). -/
theorem State.assemble_of_second {h : Header} {payload : List Byte} {crc : Word32} {b0 : Byte}
    (hs : s.rx.state = .check h payload crc (some b0)) : s.assemble b = s.endFrame h payload crc b0 b := by
  rw [State.assemble, hs]

end

/-! ### A whole frame -/

/-- The running check carries its low 16 bits (spec/08 R138). -/
theorem checkOf_toNat (crc : Word32) : (checkOf crc).toNat = crc.toNat % 65536 := by
  simp [checkOf, reportedResidue, fixed14]

/-- The payload bytes after the first of a frame are assembled in turn (spec/08 R141). -/
theorem State.assemble_payload (s : State) {h : Header} {rest got : List Byte} {crc : Word32}
    (hlen : got.length + rest.length = h.len) (hrest : rest ≠ []) :
    rest.foldl (fun x b => x.assemble b) (s.rxTo (.body h got crc)) =
      s.rxTo (.check h (got ++ rest) (foldBytes fixed14 crc rest) none) := by
  induction rest generalizing got crc with
  | nil => exact absurd rfl hrest
  | cons b rest ih =>
    rw [List.foldl_cons, State.assemble_of_body rfl]
    cases rest with
    | nil =>
      rw [if_neg (by simp at hlen; omega)]
      rfl
    | cons c more =>
      rw [if_pos (by simp at hlen; omega)]
      refine (ih (by simp at hlen ⊢; omega) (List.cons_ne_nil c more)).trans ?_
      rw [List.append_assoc]
      rfl

/-- The bytes of header and payload leave the receiver waiting for the check (spec/08 R140, R141). -/
theorem State.assemble_content (s : State) {f : Frame} (hlen : f.payload.length ≤ 248) :
    ([byteOf f.payload.length, f.tag, f.kind, f.ctrl] ++ f.payload).foldl (fun x b => x.assemble b)
        (s.rxTo (.header [] fixed14.seed)) =
      s.rxTo (.check { len := f.payload.length, tag := f.tag, kind := f.kind, ctrl := f.ctrl } f.payload
        (foldBytes fixed14 fixed14.seed ([byteOf f.payload.length, f.tag, f.kind, f.ctrl] ++ f.payload)) none) := by
  have len : (byteOf f.payload.length).toNat = f.payload.length := by rw [byteOf_toNat]; omega
  have header (crc : Word32) : (s.rxTo (.header [] crc)).assemble (byteOf f.payload.length) =
      s.rxTo (.header [byteOf f.payload.length] (foldByte fixed14 crc (byteOf f.payload.length))) :=
    State.assemble_of_header (got := []) rfl (by decide) fun _ => len.le.trans hlen
  have tag (x : Byte) (crc : Word32) : (s.rxTo (.header [x] crc)).assemble f.tag =
      s.rxTo (.header [x, f.tag] (foldByte fixed14 crc f.tag)) :=
    State.assemble_of_header (got := [x]) rfl (by simp) fun h => absurd h (List.cons_ne_nil _ _)
  have kind (x y : Byte) (crc : Word32) : (s.rxTo (.header [x, y] crc)).assemble f.kind =
      s.rxTo (.header [x, y, f.kind] (foldByte fixed14 crc f.kind)) :=
    State.assemble_of_header (got := [x, y]) rfl (by simp) fun h => absurd h (List.cons_ne_nil _ _)
  have ctrl (x y z : Byte) (crc : Word32) := State.assemble_of_ctrl (s := s.rxTo (.header [x, y, z] crc)) (b := f.ctrl) rfl
  have content (crc : Word32) : foldBytes fixed14 crc ([byteOf f.payload.length, f.tag, f.kind, f.ctrl] ++ f.payload) =
      foldBytes fixed14 (foldBytes fixed14 crc [byteOf f.payload.length, f.tag, f.kind, f.ctrl]) f.payload :=
    List.foldl_append
  have folded (crc : Word32) : foldBytes fixed14 crc [byteOf f.payload.length, f.tag, f.kind, f.ctrl] =
      foldByte fixed14 (foldByte fixed14 (foldByte fixed14 (foldByte fixed14 crc (byteOf f.payload.length)) f.tag) f.kind)
        f.ctrl := rfl
  rw [List.foldl_append, content, folded]
  simp only [List.foldl_cons, List.foldl_nil, header, tag, kind, ctrl]
  generalize foldByte fixed14 _ f.ctrl = crc
  cases hp : f.payload with
  | nil => rfl
  | cons b more =>
    have nonempty : byteOf (b :: more).length ≠ 0 := fun e => by
      have zero := congrArg BitVec.toNat e
      rw [← hp, len, hp] at zero
      simp at zero
    rw [if_neg nonempty, ← hp, len]
    exact State.assemble_payload s (by simp) (hp ▸ List.cons_ne_nil b more)

/-- A checked request with room in the queue joins it (spec/08 R142, R147). -/
theorem State.endFrame_of_room {s : State} {h : Header} {payload : List Byte} {crc : Word32} {b0 b1 : Byte}
    (hcheck : ofLeBytes [b0, b1] = (checkOf crc).toNat) (hkind : 1 ≤ h.kind.toNat) (hcode : h.kind.toNat < 64)
    (hroom : s.interp.requests.length < 4) :
    s.endFrame h payload crc b0 b1 = { s.rxHunt with interp := { s.interp with
      requests := s.interp.requests ++ [{ tag := h.tag, kind := h.kind, ctrl := h.ctrl, payload := payload }] } } :=
  (if_neg fun e => e hcheck).trans ((if_neg (by omega)).trans (if_pos hroom))

/-- Settles O45: the bytes are assembled in turn, and the check agrees. -/
theorem wholeFrameIsHandedOn : Obligations.WholeFrameIsHandedOn := by
  intro s f hhunt hlen hkind hcode hroom
  have sync : s.assemble 0xC5 = s.rxTo (.header [] fixed14.seed) := (State.assemble_of_hunt hhunt).trans (if_pos rfl)
  have content := State.assemble_content s hlen
  have wire : f.wire = 0xC5 :: (([byteOf f.payload.length, f.tag, f.kind, f.ctrl] ++ f.payload) ++
      leBytes 2 (frameCheck f.tag f.kind f.ctrl f.payload).toNat) := rfl
  rw [wire, List.foldl_cons, sync, List.foldl_append, content]
  have carried := ofLeBytes_leBytes_toNat (k := 2) rfl (frameCheck f.tag f.kind f.ctrl f.payload)
  unfold frameCheck at carried ⊢
  generalize foldBytes fixed14 fixed14.seed _ = crc at carried ⊢
  simp only [leBytes, List.foldl_cons, List.foldl_nil] at carried ⊢
  refine (State.assemble_of_second (congrArg (fun x : State => x.rx.state) (State.assemble_of_first rfl))).trans ?_
  rw [State.assemble_of_first rfl]
  exact State.endFrame_of_room carried hkind hcode hroom

end Sys2Proof.Machine
end

section
/-! The commands on RXD: characters, the check byte that ends a frame, low levels and the gap timer (spec/08 8.3, 8.4). -/

namespace Sys2Proof.Machine

set_option Elab.async false

/-! ### A character received -/

/-- The state in which a character in reception has ended. -/
def State.heard (s : State) : State := { s with rx := { s.rx with character := none } }

/-- With no character in reception CHARACTER does nothing (spec/08 R137). -/
theorem execCharacter_of_none {s : State} (h : s.rx.character = none) (t : Nat) (b : Byte) :
    exec (.character t b) s = .next (s.advance t) := by
  unfold exec execCharacter
  dsimp only
  rw [show (s.advance t).rx.character = none from h]

/-- A character received is assembled (spec/08 R137). -/
theorem execCharacter_of_some {s : State} (h : s.rx.character ≠ none) (t : Nat) (b : Byte) :
    exec (.character t b) s = .next (((s.advance t).heard.assemble b).finish (s.advance t)) := by
  obtain ⟨c, hc⟩ := Option.ne_none_iff_exists'.mp h
  unfold exec execCharacter
  dsimp only
  rw [show (s.advance t).rx.character = some c from hc]
  rfl

/-- A character that leaves a state inside a frame. -/
theorem execCharacter_of_rxTo {s : State} {t : Nat} {b : Byte} {x : RxState} (h : s.rx.character ≠ none)
    (hx : (s.advance t).heard.assemble b = (s.advance t).heard.rxTo x) :
    exec (.character t b) s = .next ({ s with
      now := max s.now t
      rx := { s.rx with state := x, gapFrom := some (max s.now t), character := none } } : State).arbitrate := by
  rw [execCharacter_of_some h, hx]
  exact congrArg Host.Outcome.next (State.finish_of_link rfl rfl rfl rfl rfl)

/-- A character that ends in a link fault (spec/08 R145). -/
theorem execCharacter_of_fault {s : State} {t : Nat} {b : Byte} {r : LinkReason} (h : s.rx.character ≠ none)
    (hx : (s.advance t).heard.assemble b = (s.advance t).heard.linkFault r) :
    ∃ s', exec (.character t b) s = .next s' ∧
      s'.rx = { s.rx with state := .hunt, gapFrom := none, character := none } ∧ linkNoticed r s s' ∧
      unchangedBut [.rx, .tx] s s' := by
  obtain ⟨rx, noticed, unchanged⟩ := State.raiseLink_finish r (reaches_of_rx
    { s.rx with state := .hunt, gapFrom := none, character := none } (s.advance t))
  exact ⟨_, (execCharacter_of_some h t b).trans (by rw [hx]; rfl), rx, noticed, unchanged⟩

/-- Settles O43: one byte by the receiver's state. -/
theorem characterExtendsFrame : Obligations.CharacterExtendsFrame := by
  refine ⟨fun t b s => ⟨fun h => execCharacter_of_none h t b, fun h hhunt => ?_⟩,
    fun t b s h => ⟨fun crc hstate hlen => execCharacter_of_fault h (State.assemble_of_length hstate hlen),
      fun x hx => execCharacter_of_rxTo h ?_⟩⟩
  · rw [execCharacter_of_some h, State.assemble_of_hunt (s := (s.advance t).heard) hhunt]
    split
    · exact congrArg Host.Outcome.next (State.finish_of_link rfl rfl rfl rfl rfl)
    · exact congrArg Host.Outcome.next (State.finish_of_link rfl rfl rfl rfl rfl)
  · rcases hx with ⟨got, crc, hstate, hgot, hlen, rfl⟩ | ⟨len, tag, kind, crc, hstate, rfl⟩ |
      ⟨head, payload, crc, hstate, rfl⟩ | ⟨head, payload, crc, hstate, rfl⟩
    · exact State.assemble_of_header hstate hgot hlen
    · exact State.assemble_of_ctrl hstate
    · exact State.assemble_of_body hstate
    · exact State.assemble_of_first hstate

/-! ### The second check byte -/

section
variable {s : State} {h : Header} {payload : List Byte} {crc : Word32} {b0 b1 : Byte}

/-- Two check bytes agree with the running check when they are its low 16 bits (spec/08 R142). -/
theorem checkAgrees_iff : ofLeBytes [b0, b1] = (checkOf crc).toNat ↔ crc.toNat % 65536 = b0.toNat + 256 * b1.toNat := by
  rw [ofLeBytes_pair, checkOf_toNat]
  exact eq_comm

/-- A wrong check (spec/08 R142, R145). -/
theorem State.endFrame_of_wrong (hcheck : crc.toNat % 65536 ≠ b0.toNat + 256 * b1.toNat) :
    s.endFrame h payload crc b0 b1 = s.linkFault .check :=
  if_pos fun e => hcheck (checkAgrees_iff.mp e)

/-- A KIND that is no request code (spec/08 R142, R145). -/
theorem State.endFrame_of_kind (hcheck : crc.toNat % 65536 = b0.toNat + 256 * b1.toNat)
    (hkind : h.kind.toNat = 0 ∨ 64 ≤ h.kind.toNat) : s.endFrame h payload crc b0 b1 = s.linkFault .unexpected :=
  (if_neg fun e => e (checkAgrees_iff.mpr hcheck)).trans (if_pos hkind)

/-- A checked request is handed on (spec/08 R142, R147). -/
theorem State.endFrame_of_request (hcheck : crc.toNat % 65536 = b0.toNat + 256 * b1.toNat) (hkind : 1 ≤ h.kind.toNat)
    (hcode : h.kind.toNat < 64) : s.endFrame h payload crc b0 b1 =
      s.rxHunt.handRequest { tag := h.tag, kind := h.kind, ctrl := h.ctrl, payload := payload } :=
  (if_neg fun e => e (checkAgrees_iff.mpr hcheck)).trans (if_neg (by omega))

/-- A request with room in the request queue joins it (spec/08 R147). -/
theorem State.handRequest_of_room {f : Frame} (h : s.interp.requests.length < 4) :
    s.handRequest f = { s with interp := { s.interp with requests := s.interp.requests ++ [f] } } := if_pos h

/-- A request without room is refused while fewer than two refusals wait (spec/08 R148). -/
theorem State.handRequest_of_refused {f : Frame} (h : 4 ≤ s.interp.requests.length) (hplace : s.refusalsWaiting < 2) :
    s.handRequest f = { s with tx := { s.tx with queue := s.tx.queue ++
      [{ frame := mkFrame f.tag (f.kind + 0x80) [0x10, 0], role := .refusal, attached := .nothing }] } } :=
  (if_neg (Nat.not_lt.mpr h)).trans (if_pos hplace)

/-- Else it is dropped (spec/08 R148). -/
theorem State.handRequest_of_dropped {f : Frame} (h : 4 ≤ s.interp.requests.length) (hplace : 2 ≤ s.refusalsWaiting) :
    s.handRequest f = s := (if_neg (Nat.not_lt.mpr h)).trans (if_neg (Nat.not_lt.mpr hplace))

end

/-- Settles O44: check, KIND and room in turn. -/
theorem lastCheckByteEndsFrame : Obligations.LastCheckByteEndsFrame := by
  intro t b0 b1 s h payload crc rx hchar hstate hrx
  have second : (s.advance t).heard.assemble b1 = (s.advance t).heard.endFrame h payload crc b0 b1 :=
    State.assemble_of_second hstate
  have handed {x : State} (hx : (s.advance t).heard.assemble b1 = x) (hseq : x.seq = s.seq) (hnow : x.now = max s.now t)
      (hunits : x.units = s.units) (hqueue : x.queue = s.queue) (hflags : x.flags = s.flags) :
      exec (.character t b1) s = .next x.arbitrate := by
    rw [execCharacter_of_some hchar, hx, State.finish_of_link (b := s.advance t) hnow hseq hunits hqueue hflags]
  refine ⟨fun hcheck => ?_, fun hcheck hkind => ?_, fun hcheck hkind hcode =>
    ⟨fun hroom => ?_, fun hfull hplace => ?_, fun hfull hplace => ?_⟩⟩
  · obtain ⟨s', hs', hrx', noticed, unchanged⟩ :=
      execCharacter_of_fault hchar (second.trans (State.endFrame_of_wrong hcheck))
    exact ⟨s', hs', hrx'.trans hrx.symm, unchanged, noticed⟩
  · obtain ⟨s', hs', hrx', noticed, unchanged⟩ :=
      execCharacter_of_fault hchar (second.trans (State.endFrame_of_kind hcheck hkind))
    exact ⟨s', hs', hrx'.trans hrx.symm, unchanged, noticed⟩
  all_goals
    have request := second.trans (State.endFrame_of_request hcheck hkind hcode)
    subst hrx
  · exact handed (request.trans (State.handRequest_of_room hroom)) rfl rfl rfl rfl rfl
  · exact handed (request.trans (State.handRequest_of_refused hfull hplace)) rfl rfl rfl rfl rfl
  · exact handed (request.trans (State.handRequest_of_dropped hfull hplace)) rfl rfl rfl rfl rfl

/-! ### Characters and gaps -/

/-- START_BIT does nothing where no falling edge can come (spec/08 R137, R144, R150, R174). -/
theorem execStartBit_of_stopped {s : State} (t : Nat) (g : Bool)
    (h : s.nResetLow = true ∨ s.rx.character ≠ none ∨ s.rx.low.lasts = true) :
    exec (.startBit t g) s = .next (s.advance t) := by
  refine if_pos ?_
  rw [Bool.or_eq_true, Bool.or_eq_true, Option.isSome_iff_ne_none, or_assoc]
  exact h

/-- A falling edge that may begin a character (spec/08 R137, R143). -/
theorem execStartBit_of_edge {s : State} (t : Nat) (g : Bool) (hreset : s.nResetLow = false)
    (hchar : s.rx.character = none) (hlow : s.rx.low.lasts = false) :
    exec (.startBit t g) s = .next ({ s.advance t with
      rx := if g then { s.rx with low := s.rx.low.afterEdge } else { s.rx with
        low := s.rx.low.afterEdge, character := some { rate := s.rx.rate, since := max s.now t }, gapFrom := none } } :
      State) := by
  refine (if_neg ?_).trans ?_
  · rw [Bool.or_eq_true, Bool.or_eq_true, Option.isSome_iff_ne_none, or_assoc]
    show ¬(s.nResetLow = true ∨ s.rx.character ≠ none ∨ s.rx.low.lasts = true)
    simp [hreset, hchar, hlow]
  · cases g <;> rfl

/-- The gap timer has reached its limit inside a frame (spec/08 R143). -/
theorem gapDue_iff (t : Nat) (s : State) :
    ((s.advance t).gapReached && decide ((s.advance t).rx.state ≠ .hunt)) = true ↔
      s.rx.state ≠ .hunt ∧ ∃ g, s.rx.gapFrom = some g ∧ g + millis s.rx.gapLimit ≤ max s.now t := by
  rw [Bool.and_eq_true, decide_eq_true_iff, State.gapReached, Option.any_eq_true]
  simp only [decide_eq_true_iff]
  exact and_comm

/-- Settles O42: the conditions of both commands, and what each does where they hold. -/
theorem charactersAndGaps : Obligations.CharactersAndGaps := by
  refine ⟨fun t g s => ⟨fun h => ?_, fun hreset hchar hlow => ?_⟩, fun t s => ⟨fun h => ?_, fun g hstate hg hdue => ?_⟩⟩
  · rcases h with h | h | ⟨x, h | h⟩ | h | ⟨rfl, h⟩
    · exact execStartBit_of_stopped t g (.inl h)
    · exact execStartBit_of_stopped t g (.inr (.inl h))
    · exact execStartBit_of_stopped t g (.inr (.inr (by rw [h]; rfl)))
    · exact execStartBit_of_stopped t g (.inr (.inr (by rw [h]; rfl)))
    · exact execStartBit_of_stopped t g (.inr (.inr (by rw [h]; rfl)))
    · by_cases stopped : s.nResetLow = true ∨ s.rx.character ≠ none ∨ s.rx.low.lasts = true
      · exact execStartBit_of_stopped t true stopped
      · simp only [not_or, Bool.not_eq_true, ne_eq, not_not] at stopped
        obtain ⟨hreset, hchar, hlow⟩ := stopped
        rw [execStartBit_of_edge t true hreset hchar hlow, h]
        exact congrArg (fun x : Receiver => Host.Outcome.next { s.advance t with rx := x })
          (show { s.rx with low := .untimed } = s.rx by rw [← h])
  · have edge : s.rx.low.lasts = false ∧ s.rx.low.afterEdge = .untimed := by
      rcases hlow with hlow | ⟨x, hlow⟩ <;> rw [hlow] <;> exact ⟨rfl, rfl⟩
    obtain ⟨falls, after⟩ := edge
    refine ⟨_, execStartBit_of_edge t g hreset hchar falls, unchangedBut_of_rx _ t s, ?_⟩
    rw [after]
    cases g <;> rfl
  · refine if_neg fun hdue => ?_
    obtain ⟨hstate, g, hg, hreached⟩ := (gapDue_iff t s).mp hdue
    rcases h with h | h | ⟨g', h, hearly⟩
    · exact hstate h
    · exact Option.some_ne_none g (hg.symm.trans h)
    · cases hg.symm.trans h
      omega
  · obtain ⟨rx, noticed, unchanged⟩ := State.raiseLink_finish .gap (reaches_of_rx
      { s.rx with state := .hunt, gapFrom := none } (s.advance t))
    exact ⟨_, if_pos ((gapDue_iff t s).mpr ⟨hstate, g, hg, hdue⟩), unchanged, rx, noticed⟩

/-! ### Low levels -/

/-- Settles O46: each command by the low level followed. -/
theorem lowLevelsEnd : Obligations.LowLevelsEnd := by
  refine ⟨fun t since s => ⟨fun h => ?_, fun h hsince => ?_⟩,
    fun t since s => ⟨fun h hearly => ?_, fun h => ?_, fun h => ?_, fun h => ?_⟩⟩
  · unfold exec execLowStopBit
    dsimp only
    rw [show (s.advance t).rx.character = none from h]
  · obtain ⟨c, hc⟩ := Option.ne_none_iff_exists'.mp h
    have began : min since (max s.now t) = since := by omega
    refine ⟨{ s.advance t with rx := { s.rx with
      state := .hunt, gapFrom := none, character := none, low := .watched since } }, ?_, unchangedBut_of_rx _ t s, rfl⟩
    unfold exec execLowStopBit
    dsimp only
    rw [show (s.advance t).rx.character = some c from hc, show (s.advance t).now = max s.now t from rfl, began]
    rfl
  · obtain ⟨rx, noticed, unchanged⟩ := State.raiseLink_finish .framing (reaches_of_rx
      { s.rx with low := .untimed } (s.advance t))
    refine ⟨_, ?_, unchanged, rx, noticed⟩
    unfold exec execFraming
    dsimp only
    rw [show (s.advance t).rx.low = .watched since from h]
    exact if_pos hearly
  · unfold exec execFraming
    dsimp only
    split
    · next x hx => exact if_neg (Nat.not_lt.mpr (h x hx))
    all_goals rfl
  · refine ⟨{ s.advance t with rx := { s.rx with low := .untimed } }, ?_, unchangedBut_of_rx _ t s, rfl⟩
    unfold exec execRxdReturnHigh
    dsimp only
    rcases h with h | h | ⟨h, hearly⟩
    · rw [show (s.advance t).rx.low = .afterBreak from h]
      rfl
    · rw [show (s.advance t).rx.low = .dropped since from h]
      rfl
    · rw [show (s.advance t).rx.low = .timed since from h]
      exact if_pos hearly
  · unfold exec execRxdReturnHigh
    dsimp only
    rcases h with h | h | ⟨h, hlate⟩
    · rw [show (s.advance t).rx.low = .untimed from h]
    · rw [show (s.advance t).rx.low = .watched since from h]
    · rw [show (s.advance t).rx.low = .timed since from h]
      exact if_neg (Nat.not_lt.mpr hlate)

end Sys2Proof.Machine
end

section
/-! The arbiter of TXD: the oldest reply, else the pending notice of highest priority (spec/09 R171, R172). -/

namespace Sys2Proof.Machine

set_option Elab.async false

/-! ### What is chosen -/

/-- A notice as it waits for TXD (spec/09 R168, R172). -/
def noticeOf (kind : Byte) (payload : List Byte) : QueuedReply :=
  { frame := mkFrame 0 kind payload, role := .notice, attached := .nothing }

section
variable {x : Transmitter}

/-- START comes first among the notices (spec/09 R172). -/
theorem Transmitter.choose_of_start {n : StartNotice} (hq : x.queue = []) (hn : x.start = some n) :
    x.choose = some (noticeOf 0x40 n.payload, { x with start := none }) := by
  rw [Transmitter.choose, hq, hn]
  rfl

/-- LINK comes second (spec/09 R172). -/
theorem Transmitter.choose_of_link {n : LinkNotice} (hq : x.queue = []) (hstart : x.start = none)
    (hn : x.link = some n) : x.choose = some (noticeOf 0x41 n.payload, { x with link := none }) := by
  rw [Transmitter.choose, hq, hstart, hn]
  rfl

/-- PLAN comes third (spec/09 R172). -/
theorem Transmitter.choose_of_plan {n : PlanNotice} (hq : x.queue = []) (hstart : x.start = none)
    (hlink : x.link = none) (hn : x.plan = some n) :
    x.choose = some (noticeOf 0x42 n.payload, { x with plan := none }) := by
  rw [Transmitter.choose, hq, hstart, hlink, hn]
  rfl

/-- RESULTS comes last (spec/09 R172). -/
theorem Transmitter.choose_of_results {n : ResultsNotice} (hq : x.queue = []) (hstart : x.start = none)
    (hlink : x.link = none) (hplan : x.plan = none) (hn : x.results = some n) :
    x.choose = some (noticeOf 0x43 n.payload, { x with results := none }) := by
  rw [Transmitter.choose, hq, hstart, hlink, hplan, hn]
  rfl

/-- With nothing waiting nothing is chosen (spec/09 R172). -/
theorem Transmitter.choose_of_nothing (hq : x.queue = []) (hstart : x.start = none) (hlink : x.link = none)
    (hplan : x.plan = none) (hresults : x.results = none) : x.choose = none := by
  rw [Transmitter.choose, hq, hstart, hlink, hplan, hresults]

/-- The choice leaves the frame in flight and the instant from which TXD is free, and without replies it is a notice with
nothing attached (spec/09 R172). -/
theorem Transmitter.choose_leaves {q : QueuedReply} {y : Transmitter} (h : x.choose = some (q, y)) :
    y.inFlight = x.inFlight ∧ y.freeAt = x.freeAt ∧ (x.queue = [] → q.role = .notice ∧ q.attached = .nothing) := by
  unfold Transmitter.choose at h
  dsimp only at h
  split at h
  case h_6 => cases h
  case h_1 =>
    cases h
    exact ⟨rfl, rfl, fun hnil => by simp_all⟩
  all_goals
    cases h
    exact ⟨rfl, rfl, fun _ => ⟨rfl, rfl⟩⟩

end

/-! ### What is sent -/

section
variable {s : State}

/-- The arbiter reaches the transmitter alone (spec/09 R172). -/
theorem State.arbitrate_eq (s : State) : s.arbitrate = { s with tx := s.arbitrate.tx } := by
  unfold State.arbitrate
  split
  · rfl
  · split <;> rfl

/-- A choice is sent as soon as TXD is free (spec/09 R172, spec/08 R149). -/
theorem State.arbitrate_of_choose {q : QueuedReply} {y : Transmitter} (hreset : s.nResetLow = false)
    (hfree : s.tx.inFlight = none) (h : s.tx.choose = some (q, y)) :
    s.arbitrate = { s with tx := { y with
      inFlight := some { frame := q.frame, role := q.role, attached := q.attached, beganAt := max s.now y.freeAt,
                         rate := s.rx.rate } } } := by
  refine (if_neg (by simp [hreset, hfree])).trans ?_
  rw [h]

/-- With nothing chosen nothing is sent (spec/09 R172). -/
theorem State.arbitrate_of_no_choice (h : s.tx.choose = none) : s.arbitrate = s := by
  unfold State.arbitrate
  rw [h]
  split <;> rfl

/-- A notice chosen is the frame in flight, and the rest of the transmitter is what the choice left (spec/09 R172). -/
theorem State.arbitrate_notice {kind : Byte} {payload : List Byte} {y : Transmitter} (hreset : s.nResetLow = false)
    (hfree : s.tx.inFlight = none) (h : s.tx.choose = some (noticeOf kind payload, y)) :
    s.arbitrate.tx.inFlight.map (·.frame) = some (mkFrame 0 kind payload) ∧
      { s.arbitrate.tx with inFlight := none } = y := by
  obtain ⟨inFlight, -, -⟩ := Transmitter.choose_leaves h
  rw [State.arbitrate_of_choose hreset hfree h]
  refine ⟨rfl, ?_⟩
  show { y with inFlight := none } = y
  rw [← hfree, ← inFlight]

end

/-! ### Payloads -/

/-- The code of a START reason is its place in the list of 10.8. -/
theorem StartReason.code_of_place {r : StartReason} {c : Nat}
    (h : [StartReason.powerUp, .resetLine, .fullReset][c]? = some r) : r.code = c := by
  match c, h with
  | 0, h | 1, h | 2, h => cases h; rfl

/-- The code of a LINK reason is its place in the list of 10.8. -/
theorem LinkReason.code_of_place {r : LinkReason} {c : Nat}
    (h : [LinkReason.gap, .length, .check, .framing, .unexpected, .recovery][c]? = some r) : r.code = c := by
  match c, h with
  | 0, h | 1, h | 2, h | 3, h | 4, h | 5, h => cases h; rfl

/-- The code of a plan condition is its place in the list of 10.8. -/
theorem PlanCondition.code_of_place {p : PlanCondition} {c : Nat}
    (h : [PlanCondition.idle, .running, .held, .paused][c]? = some p) : p.code = c := by
  match c, h with
  | 0, h | 1, h | 2, h | 3, h => cases h; rfl

/-- The code of an outcome is its place in the list of 10.7. -/
theorem OutcomeKind.code_of_place {k : OutcomeKind} {c : Nat}
    (h : [OutcomeKind.done, .halted, .aborted, .cleared][c]? = some k) : k.code = c := by
  match c, h with
  | 0, h | 1, h | 2, h | 3, h => cases h; rfl

/-- The five bytes of a last outcome in a PLAN notice (spec/10 10.8). -/
theorem outcome_in_notice {o : Option LastOutcome} {out : List Byte} (hnone : o = none → out = [0, 0, 0, 0, 0])
    (hsome : ∀ x, o = some x → ∃ k : Nat, [OutcomeKind.done, .halted, .aborted, .cleared][k]? = some x.kind ∧
      out = [1, BitVec.ofNat 8 k, BitVec.ofNat 8 x.step.val] ++ leBytes 2 x.iteration) :
    [byteOf (ofBit o.isSome)] ++ outcomeBytes o = out := by
  cases o with
  | none => exact (hnone rfl).symm
  | some x =>
    obtain ⟨k, hk, hout⟩ := hsome x rfl
    rw [hout, ← OutcomeKind.code_of_place hk]
    rfl

/-- Settles O49: the choice by queue and notices in turn, and the frame it puts in flight. -/
theorem arbiterChoosesByPriority : Obligations.ArbiterChoosesByPriority := by
  intro s hreset
  refine ⟨State.arbitrate_of_busy s, fun hfree => ⟨s.arbitrate.tx, s.arbitrate_eq, ?_, fun q more hq => ?_,
    fun hq => ⟨fun n c hn hc => ?_, fun n c hstart hn hc => ?_, fun n c out hstart hlink hn hc hnone hsome => ?_,
      fun n hstart hlink hplan hn => ?_, fun f hf => ?_, fun hstart hlink hplan hresults => ?_⟩⟩⟩
  · cases hc : s.tx.choose with
    | none => rw [State.arbitrate_of_no_choice hc]
    | some c =>
      rw [State.arbitrate_of_choose hreset hfree hc]
      exact (Transmitter.choose_leaves hc).2.1
  · rw [State.arbitrate_of_queue s q more hreset hfree hq]
  · have sent := State.arbitrate_notice hreset hfree (Transmitter.choose_of_start hq hn)
    rw [StartNotice.payload, StartReason.code_of_place hc] at sent
    exact sent
  · have sent := State.arbitrate_notice hreset hfree (Transmitter.choose_of_link hq hstart hn)
    rw [LinkNotice.payload, LinkReason.code_of_place hc] at sent
    exact sent
  · have sent := State.arbitrate_notice hreset hfree (Transmitter.choose_of_plan hq hstart hlink hn)
    rw [PlanNotice.payload, PlanCondition.code_of_place hc, List.append_assoc _ [_] (outcomeBytes _),
      outcome_in_notice hnone hsome] at sent
    exact sent
  · exact State.arbitrate_notice hreset hfree (Transmitter.choose_of_results hq hstart hlink hplan hn)
  · cases hc : s.tx.choose with
    | none =>
      rw [State.arbitrate_of_no_choice hc, hfree] at hf
      cases hf
    | some c =>
      obtain ⟨-, freeAt, notice⟩ := Transmitter.choose_leaves hc
      obtain ⟨role, attached⟩ := notice hq
      rw [State.arbitrate_of_choose hreset hfree hc, freeAt] at hf
      cases hf
      exact ⟨role, attached, rfl, rfl⟩
  · rw [State.arbitrate_of_no_choice (Transmitter.choose_of_nothing hq hstart hlink hplan hresults)]

end Sys2Proof.Machine
end

section
/-! The end of a frame on TXD and a break on RXD: what is attached to a reply, link recovery, and the FULL reset after
either (spec/08 8.6, 8.7, spec/09 9.6). -/

namespace Sys2Proof.Machine

set_option Elab.async false

/-! ### The FULL reset -/

/-- The FULL reset and the arbiter's choice after it: START goes first, LINK stays pending (spec/09 R167, R170, R172). -/
theorem State.fullReset_ends (y : State) :
    freshBlocks (fun n => (y.probes[n]).pin) y.fullReset.arbitrate ∧ freshInterpreter y.fullReset.arbitrate ∧
      y.fullReset.arbitrate.rx = y.rx.afterFullReset ∧ y.fullReset.arbitrate.tx.queue = [] ∧
      y.fullReset.arbitrate.tx.plan = none ∧ y.fullReset.arbitrate.tx.results = none ∧
      y.fullReset.arbitrate.tx.link = y.tx.link ∧
      (y.nResetLow = false → y.fullReset.arbitrate.tx.start = none ∧
        y.fullReset.arbitrate.tx.inFlight.map (·.frame) =
          some (mkFrame 0 0x40 [2, BitVec.ofNat 8 (min 255 ((y.tx.start.map (·.count)).getD 0 + 1))])) := by
  have interp : y.fullReset.arbitrate.interp = Interpreter.afterReset := State.arbitrate_frame _ |>.2.2.2.2.2.2.2.2.2.2.1
  refine ⟨freshBlocks_congr y.fullReset_fresh fun b hb => State.arbitrate_sameBlock _ b ?_, ?_, ?_, ?_⟩
  · rintro rfl
    simp at hb
  · exact interp
  · simp [State.fullReset, State.raiseStart]
  · cases hreset : y.nResetLow with
    | true =>
      rw [State.arbitrate_of_reset y.fullReset hreset]
      exact ⟨rfl, rfl, rfl, rfl, fun h => Bool.noConfusion h⟩
    | false =>
      have chosen := Transmitter.choose_of_start (x := y.fullReset.tx) rfl rfl
      rw [State.arbitrate_of_choose (s := y.fullReset) hreset rfl chosen]
      exact ⟨rfl, rfl, rfl, rfl, fun _ => ⟨rfl, rfl⟩⟩

/-! ### FRAME_SENT -/

/-- Before its last byte has left a frame stays in flight (spec/08 R149). -/
theorem execFrameSent_of_early {s : State} {t : Nat} {f : InFlight} (hf : s.tx.inFlight = some f)
    (h : max s.now t < f.endAt) : exec (.frameSent t) s = .next (s.advance t) := by
  unfold exec execFrameSent
  dsimp only
  rw [show (s.advance t).tx.inFlight = some f from hf]
  exact if_neg (Nat.not_le.mpr h)

/-- The last byte of a frame has left (spec/08 R149). -/
theorem execFrameSent_of_sent {s : State} {t : Nat} {f : InFlight} (hf : s.tx.inFlight = some f)
    (h : f.endAt ≤ max s.now t) : exec (.frameSent t) s =
      .next ((({ s with now := max s.now t, tx := { s.tx with inFlight := none } } : State).applyAttached
        f.attached).arbitrate) := by
  unfold exec execFrameSent
  dsimp only
  rw [show (s.advance t).tx.inFlight = some f from hf]
  exact if_pos h

/-- A rate switch of the receiver (spec/08 R154). -/
theorem State.switchRate_eq (r : LinkRate) (s : State) :
    s.switchRate r = { s with rx := if r = s.rx.rate then s.rx else { s.rx with
      state := .hunt, rate := r, gapFrom := none, character := none, low := s.rx.lowAfterDrop } } := by
  unfold State.switchRate
  split <;> rfl

/-- Settles O48: what is attached comes about when the last byte has left. -/
theorem frameSentAppliesAttachment : Obligations.FrameSentAppliesAttachment := by
  refine fun t s => ⟨fun h => ?_, fun f hf => ⟨fun hearly => execFrameSent_of_early hf hearly, fun hsent =>
    ⟨_, execFrameSent_of_sent hf hsent, fun hnothing => ?_, fun r hrate => ?_, fun hreset => ?_⟩⟩⟩
  · unfold exec execFrameSent
    dsimp only
    rw [show (s.advance t).tx.inFlight = none from h]
  · rw [hnothing]
    rfl
  · rw [hrate]
    refine congrArg State.arbitrate ((State.switchRate_eq r _).trans ?_)
    rfl
  · rw [hreset]
    obtain ⟨fresh, interp, rx, queue, plan, results, link, start⟩ := State.fullReset_ends
      { s with now := max s.now t, tx := { s.tx with inFlight := none } }
    refine ⟨fresh, interp, rx.trans ?_, queue, plan, results, link, fun h => (start h).2⟩
    unfold Receiver.afterFullReset LowLevel.afterFullReset
    cases s.rx.low <;> rfl

/-! ### BREAK -/

/-- A character takes time at every rate (spec/08 8.1). -/
theorem LinkRate.characterTime_pos (r : LinkRate) : 0 < r.characterTime := by
  cases r <;> decide

/-- The end of the character in progress of a frame (spec/08 R151 step 5). -/
theorem InFlight.characterEnd_ends (f : InFlight) (now : Nat) : characterEnds f now (f.characterEnd now) := by
  have pos := f.rate.characterTime_pos
  unfold characterEnds InFlight.characterEnd
  generalize f.rate.characterTime = c at pos ⊢
  refine ⟨⟨_, rfl⟩, fun h => ?_, fun h => ?_⟩
  · have none : (now - f.beganAt + c - 1) / c = 0 := Nat.div_eq_of_lt (by omega)
    rw [none]
    omega
  · have above := Nat.div_add_mod (now - f.beganAt + c - 1) c
    have below := Nat.mod_lt (now - f.beganAt + c - 1) pos
    rw [Nat.mul_comm] at above
    omega

/-- A break that is not yet one (spec/08 R150). -/
theorem execBrk_of_early {s : State} {t since : Nat} (hlow : s.rx.low.since = some since)
    (h : max s.now t < since + millis 10) : exec (.brk t) s = .next (s.advance t) := by
  refine if_neg ?_
  rw [show (s.advance t).rx.low.since = some since from hlow, Option.any_some, decide_eq_true_iff]
  exact Nat.not_le.mpr h

/-- A low of 10 ms is a break (spec/08 R150). -/
theorem execBrk_of_due {s : State} {t since : Nat} (hlow : s.rx.low.since = some since)
    (h : since + millis 10 ≤ max s.now t) : exec (.brk t) s = .next (s.advance t).takeBreak.arbitrate := by
  refine if_pos ?_
  rw [show (s.advance t).rx.low.since = some since from hlow, Option.any_some, decide_eq_true_iff]
  exact h

/-- The instant from which TXD is free after a break (spec/08 R151 step 5). -/
def State.freeAfterBreak (s : State) : Nat := (s.tx.inFlight.map (InFlight.characterEnd s.now)).getD s.tx.freeAt

/-- The state after link recovery, block by block (spec/08 R151). -/
def State.recovered (s : State) : State :=
  { s with
    rx := { state := .hunt, rate := .b115200, gapLimit := 25, gapFrom := none, character := none, low := .afterBreak }
    interp := { s.interp with requests := [], cache := [] }
    tx := { s.tx with
      queue := [], inFlight := none, freeAt := s.freeAfterBreak
      link := linkRaised .recovery s.interp.mask s.tx.link } }

/-- Link recovery leaves the state recovered (spec/08 R151). -/
theorem State.recoverLink_eq (s : State) : s.recoverLink = s.recovered := by
  unfold State.recoverLink
  rw [State.raiseLink_eq]
  rfl

section
variable {x : State}

/-- Without replies the arbiter leaves the reply queue empty (spec/09 R172). -/
theorem State.arbitrate_queue_nil (hq : x.tx.queue = []) : x.arbitrate.tx.queue = [] := by
  rcases x.arbitrate_cases with same | ⟨-, ⟨q, more, hcons, -⟩ | ⟨-, left, -⟩⟩
  · rw [same, hq]
  · exact absurd (hq.symm.trans hcons) (List.cons_ne_nil q more).symm
  · exact left

/-- Without replies what the arbiter puts in flight on a free TXD is a notice (spec/09 R172). -/
theorem State.arbitrate_sends_notice {f : InFlight} (hq : x.tx.queue = []) (hfree : x.tx.inFlight = none)
    (hf : x.arbitrate.tx.inFlight = some f) :
    f.role = .notice ∧ f.beganAt = max x.now x.tx.freeAt ∧ f.rate = x.rx.rate := by
  cases hreset : x.nResetLow with
  | true =>
    rw [State.arbitrate_of_reset x hreset, hfree] at hf
    cases hf
  | false =>
    cases hc : x.tx.choose with
    | none =>
      rw [State.arbitrate_of_no_choice hc, hfree] at hf
      cases hf
    | some c =>
      obtain ⟨-, freeAt, notice⟩ := Transmitter.choose_leaves hc
      rw [State.arbitrate_of_choose hreset hfree hc, freeAt] at hf
      cases hf
      exact ⟨(notice hq).1, rfl, rfl⟩

end

/-- After link recovery the arbiter chooses LINK, unless START is pending (spec/08 R151, spec/09 R172). -/
theorem State.recovered_sends {s : State} (hreset : s.nResetLow = false) (hstart : s.tx.start = none)
    (hmask : s.interp.mask.link = true) :
    s.recovered.arbitrate.tx.plan = s.tx.plan ∧ s.recovered.arbitrate.tx.results = s.tx.results ∧
      s.recovered.arbitrate.tx.link = none := by
  have raised : ∃ n, s.recovered.tx.link = some n := ⟨_, if_pos hmask⟩
  obtain ⟨n, hn⟩ := raised
  have chosen := Transmitter.choose_of_link (x := s.recovered.tx) rfl hstart hn
  rw [State.arbitrate_of_choose (s := s.recovered) hreset rfl chosen]
  exact ⟨rfl, rfl, rfl⟩

/-- Link recovery reaches the link alone (spec/08 R151). -/
theorem State.recovered_unchanged (t : Nat) (s : State) :
    unchangedBut [.rx, .interp, .tx] s (s.advance t).recovered.arbitrate := by
  obtain ⟨-, reset, probes, profiles, steps, units, seq, queue, flags, -, -, choices, pending⟩ :=
    State.arbitrate_frame (s.advance t).recovered
  refine ⟨fun b hb => ?_, reset, pending, choices⟩
  cases b <;> simp at hb
  exacts [probes, profiles, steps, units, seq, queue, flags]

/-- The instant from which TXD is free after a break: that of before, or the end of the character cut into (spec/08 R151
step 5). -/
theorem State.freeAfterBreak_spec (s : State) :
    (s.tx.inFlight = none → s.freeAfterBreak = s.tx.freeAt) ∧
      ∀ f, s.tx.inFlight = some f → characterEnds f s.now s.freeAfterBreak := by
  unfold State.freeAfterBreak
  refine ⟨fun h => by rw [h]; rfl, fun f h => ?_⟩
  rw [h]
  exact f.characterEnd_ends s.now

/-- Settles O47: the instant of the break, link recovery, and the FULL reset that was pending. -/
theorem breakRecoversLink : Obligations.BreakRecoversLink := by
  intro t since s hlow
  have low : s.rx.low.since = some since := by
    rcases hlow with hlow | hlow | hlow <;> rw [hlow] <;> rfl
  refine ⟨execBrk_of_early low, fun hdue => ⟨_, (s.advance t).freeAfterBreak, execBrk_of_due low hdue, ?_⟩⟩
  obtain ⟨idle, busy⟩ := (s.advance t).freeAfterBreak_spec
  cases hpending : s.interp.resetPending with
  | false =>
    have recovers : (s.advance t).takeBreak = (s.advance t).recovered :=
      (if_neg (by simp [hpending])).trans (s.advance t).recoverLink_eq
    rw [recovers]
    obtain ⟨now, -, -, -, -, -, -, -, -, rx, interp, -, -⟩ := State.arbitrate_frame (s.advance t).recovered
    rw [rx, interp, now]
    exact ⟨rfl, rfl, rfl, State.arbitrate_queue_nil rfl, hpending, idle, busy,
      fun f hf => State.arbitrate_sends_notice rfl rfl hf,
      fun _ => ⟨State.recovered_unchanged t s, rfl, State.arbitrate_sentFrom _ _ rfl,
        State.recovered_sends (s := s.advance t)⟩, fun h => Bool.noConfusion h⟩
  | true =>
    have resets : (s.advance t).takeBreak = (s.advance t).recovered.fullReset :=
      (if_pos hpending).trans (congrArg State.fullReset (s.advance t).recoverLink_eq)
    rw [resets]
    obtain ⟨fresh, interp, rx, queue, plan, results, link, start⟩ := (s.advance t).recovered.fullReset_ends
    have now : (s.advance t).recovered.fullReset.arbitrate.now = max s.now t :=
      (State.arbitrate_frame (s.advance t).recovered.fullReset).1
    have emptied := interp
    unfold freshInterpreter at emptied
    rw [rx, emptied, now]
    exact ⟨rfl, rfl, rfl, queue, rfl, idle, busy, fun f hf => State.arbitrate_sends_notice rfl rfl hf,
      fun h => Bool.noConfusion h, fun _ => ⟨fresh, interp, plan, results, link, start⟩⟩

end Sys2Proof.Machine
end

section
/-! The general requests and SET LINK (spec/08 R153, spec/09 9.2 to 9.6): when a request is taken, the reply cache, and the
rules that reach the link alone. -/

namespace Sys2Proof.Machine

set_option Elab.async false

/-! ### When a request is taken -/

/-- Each command of the list takes a request (spec/09 R158). -/
theorem exec_of_mem_takings {t : Nat} {c : Instr} (h : c ∈ takings t) (s : State) :
    ∃ row body, exec c s = .next ((s.advance t).takeRequest row body) := by
  simp only [takings, List.mem_cons, List.not_mem_nil, or_false] at h
  rcases h with rfl | rfl | rfl | rfl | rfl | rfl | rfl | rfl | rfl | rfl | rfl | rfl | rfl | rfl | rfl | rfl | rfl |
    rfl | rfl | rfl | rfl | rfl | rfl | rfl | rfl | rfl | rfl
  all_goals exact ⟨_, _, rfl⟩

/-- With the queue empty or the conditions of R156 not met no request is taken. -/
theorem State.takeRequest_of_stopped {s : State} (h : s.interp.requests = [] ∨ s.mayTake = false)
    (row : Frame → Bool) (body : List Byte → State → State × Reply) : s.takeRequest row body = s := by
  rcases s.takeRequest_cases row body with same | ⟨f, rest, hq, hmay, -⟩
  · exact same
  · rcases h with h | h
    · exact absurd (h.symm.trans hq) (List.cons_ne_nil f rest).symm
    · rw [h] at hmay
      cases hmay

/-- The conditions of R156 and R174 on everything but the queue are not met. -/
theorem State.mayTake_eq_false {s : State}
    (h : s.nResetLow = true ∨ s.interp.resetPending = true ∨ 2 ≤ s.placesHeld) : s.mayTake = false := by
  rw [← Bool.not_eq_true, State.mayTake_iff]
  rintro ⟨hreset, hpending, hplaces⟩
  rcases h with h | h | h
  · exact Bool.noConfusion (hreset.symm.trans h)
  · exact Bool.noConfusion (hpending.symm.trans h)
  · exact Nat.not_lt.mpr h hplaces

/-- The row of a frame takes it, at the instant given (spec/09 R158). -/
theorem rowOf_takes (f : Frame) (t : Nat) (s : State) :
    ∃ row body, exec (rowOf f t) s = .next ((s.advance t).takeRequest row body) ∧ row f = true := by
  cases hk : ReqKind.ofCode f.kind with
  | none =>
    refine ⟨Frame.isUnknown, unknownKind, ?_, decide_eq_true hk⟩
    unfold rowOf
    rw [hk]
    rfl
  | some k =>
    have named : f.isKind k = true := decide_eq_true hk
    unfold rowOf
    rw [hk]
    cases k
    case reset =>
      cases hplan : f.isResetPlan with
      | true => exact ⟨_, _, rfl, hplan⟩
      | false =>
        refine ⟨_, _, rfl, ?_⟩
        have full : f.payload = [1] := by simpa [Frame.isResetPlan, named] using hplan
        simp [Frame.isResetFull, named, full]
    case mark =>
      cases hstart : f.isMarkStart with
      | true => exact ⟨_, _, rfl, hstart⟩
      | false =>
        refine ⟨_, _, rfl, ?_⟩
        have stop : markKind f.payload = some 1 := by simpa [Frame.isMarkStart, named] using hstart
        simp [Frame.isMarkStop, named, stop]
    all_goals exact ⟨_, _, rfl, named⟩

/-! ### A RETRY answered from the cache -/

/-- A RETRY whose tag is cached is answered with the cached frame (spec/09 R158 step 1, R160). -/
theorem State.takeRequest_of_cached {s : State} {f : Frame} {rest : List Frame} {g : OutFrame} {row : Frame → Bool}
    (hq : s.interp.requests = f :: rest) (hmay : s.mayTake = true) (hretry : f.retry = true)
    (hg : s.interp.cached f.tag = some g) (hrow : row f = true) (body : List Byte → State → State × Reply) :
    s.takeRequest row body = ((s.popped rest).giveReply f.tag g .nothing).finish s := by
  have cached : (s.popped rest).interp.cached f.tag = some g := hg
  unfold State.takeRequest
  rw [hq]
  refine (if_pos (by simp [hmay, hrow])).trans (congrArg (State.finish · s) ?_)
  show (s.popped rest).treat body f = _
  unfold State.treat
  rw [hretry, if_pos rfl, cached]

/-- A reply given and nothing else: settings and notices stand, and every block but interpreter and TXD (spec/09 R158). -/
theorem State.giveReply_alone (s : State) (rest : List Frame) (tag : Byte) (g : OutFrame) (a : Attached) (t : Nat) :
    let s' := (((s.advance t).popped rest).giveReply tag g a).finish (s.advance t)
    s'.interp = { s.interp with requests := rest, cache := writeCache tag g s.interp.cache } ∧ replyGiven g a s s' ∧
      sameNotices s s' ∧ unchangedBut [.interp, .tx] s s' := by
  obtain ⟨interp, start, link, results, plan, given⟩ :=
    State.giveReply_finish ((s.advance t).popped rest) (s.advance t) tag g a
  have flags := State.finish_flags_of_same (((s.advance t).popped rest).giveReply tag g a) (s.advance t)
    rfl rfl rfl rfl rfl
  obtain ⟨-, reset, probes, profiles, steps, units, seq, queue, rx, -, choices, pending⟩ :=
    State.finish_frame (s.advance t) (((s.advance t).popped rest).giveReply tag g a)
  refine ⟨interp, replyGiven_of_tx rfl rfl rfl given, ⟨start, link, plan.trans ?_, results⟩, fun b hb => ?_, reset,
    pending, choices⟩
  · rw [State.noticePlan_of_same (((s.advance t).popped rest).giveReply tag g a) (s.advance t) rfl]
    rfl
  · cases b <;> simp at hb
    exacts [probes, profiles, steps, units, seq, queue, flags, rx]

/-- Settles O51: the conditions of a taking, a RETRY from the cache, and the rule of the cache. -/
theorem takingConditionsAndRetry : Obligations.TakingConditionsAndRetry := by
  refine ⟨fun t s c hc h => ?_, fun t s f rest g hq hmay hcache hretry hg => ?_,
    fun tag g before => writeCache_cacheWritten tag g before⟩
  · obtain ⟨row, body, hexec⟩ := exec_of_mem_takings hc s
    rw [hexec, State.takeRequest_of_stopped (s := s.advance t) (h.imp_right State.mayTake_eq_false) row body]
  · obtain ⟨row, body, hexec, hrow⟩ := rowOf_takes f t s
    obtain ⟨interp, given, notices, unchanged⟩ := s.giveReply_alone rest f.tag g .nothing t
    rw [State.takeRequest_of_cached (s := s.advance t) hq hmay hretry hg hrow body] at hexec
    obtain ⟨e, he, -⟩ := Option.map_eq_some_iff.mp hg
    have held : ∃ e ∈ s.interp.cache, e.tag = f.tag :=
      ⟨e, List.mem_of_find?_eq_some he, by simpa using List.find?_some he⟩
    refine ⟨_, hexec, by rw [interp], ?_, given, ⟨by rw [interp], by rw [interp]⟩, notices, unchanged⟩
    rw [interp]
    exact (writeCache_cacheWritten f.tag g s.interp.cache).1 held hcache

/-! ### HELLO and unknown kinds -/

/-- Settles O52: the reply of HELLO by its payload, and the refusal of a KIND that names no request. -/
theorem helloAndUnknownKind : Obligations.HelloAndUnknownKind := by
  refine ⟨fun t s f rest h hkind => ?_, fun t s f rest h hkind => ?_⟩
  · have hrow : Frame.isKind .hello f = true := by simp [Frame.isKind, hkind, ReqKind.ofCode]
    split
    · next hp => exact exec_answeredOnly (r := .okWith helloBytes) rfl h hrow (noParameters_of_nil hp _) rfl
    · next hp => exact exec_answeredOnly (r := .refuse .malformed) rfl h hrow (noParameters_of_payload hp _) rfl
  · have unknown : ReqKind.ofCode f.kind = none := by
      unfold ReqKind.ofCode
      split <;> first | rfl | omega
    exact exec_answeredOnly (r := .refuse .unknownKind) rfl h (decide_eq_true unknown) rfl rfl

/-! ### Rules that reach the link alone -/

/-- A taking whose rule reaches interpreter and TXD alone, and of these neither the requests nor what TXD sends: the reply
is given, and every other block stands (spec/09 R158). -/
theorem exec_taken_of_link {c : Instr} {s x : State} {f : Frame} {rest : List Frame} {row : Frame → Bool}
    {body : List Byte → State → State × Reply} {t : Nat} {r : Reply}
    (hexec : exec c s = .next ((s.advance t).takeRequest row body)) (h : Takes s f rest) (hrow : row f = true)
    (hbody : body f.payload ((s.advance t).popped rest) = (x, r))
    (hx : reaches [.interp, .tx] ((s.advance t).popped rest) x) (hrequests : x.interp.requests = rest)
    (hcache : x.interp.cache = s.interp.cache) (hqueue : x.tx.queue = s.tx.queue)
    (hflight : x.tx.inFlight = s.tx.inFlight) (hfree : x.tx.freeAt = s.tx.freeAt) :
    ∃ s', exec c s = .next s' ∧ answeredWith r.attached f rest r.payload s s' ∧ unchangedBut [.interp, .tx] s s' ∧
      TakingEnds f rest r.payload r.attached s x s' t := by
  obtain ⟨now, blocks, reset, pending, choices⟩ := hx
  have ends := State.taking_ends h hrow hbody rfl hrequests hqueue hflight hfree
  have flags := ends.flags_of_open now (blocks .flags (by decide)) (congrArg Sequencer.plan (blocks .seq (by decide)))
    (fun u => by simp only [State.isOpen, show x.units = s.units from blocks .units (by decide)])
    (blocks .queue (by decide))
  refine ⟨_, hexec, ⟨ends.requests, ?_, ends.given⟩, ⟨fun b hb => ?_, ends.nResetLow.trans reset,
    ends.pending.trans pending, ends.choices.trans choices⟩, ends⟩
  · rw [ends.interp, hcache]
    exact writeCache_cacheWritten _ _ _
  · have same := blocks b hb
    cases b <;> simp at hb
    exacts [ends.probes.trans same, ends.profiles.trans same, ends.steps.trans same, ends.units.trans same,
      ends.seq.trans same, ends.queue.trans same, flags, ends.rx.trans same]

/-- A SET NOTICES that is not of one byte is malformed (spec/09 R164). -/
theorem setNotices_of_length {payload : List Byte} (h : payload.length ≠ 1) (s : State) :
    setNotices payload s = (s, .refuse .malformed) := by
  unfold setNotices
  split
  · exact absurd rfl h
  · rfl

/-- The three mask bits of a byte are its value over 8 (spec/10 10.3 note 3). -/
theorem maskByte_of_bits (b : Byte) :
    maskByte { link := bitOf b 0, plan := bitOf b 1, results := bitOf b 2 } = b &&& 7 := by
  revert b
  decide

/-- Settles O53: the check, the mask and the pending notices that it removes. -/
theorem setNoticesMasksKinds : Obligations.SetNoticesMasksKinds := by
  intro t s f rest h hkind
  have hrow : Frame.isKind .setNotices f = true := by simp [Frame.isKind, hkind, ReqKind.ofCode]
  refine ⟨fun hlen => exec_answeredOnly (r := .refuse .malformed) rfl h hrow (setNotices_of_length hlen _) rfl,
    fun b hp => ?_⟩
  have body : setNotices f.payload ((s.advance t).popped rest) = _ :=
    congrArg (setNotices · ((s.advance t).popped rest)) hp
  obtain ⟨s', hs', answer, unchanged, ends⟩ := exec_taken_of_link (c := .setNotices t)
    (r := .okWith [maskByte { link := bitOf b 0, plan := bitOf b 1, results := bitOf b 2 }]) rfl h hrow body
    (reaches_of_rule setNotices_touches body) rfl rfl rfl rfl rfl
  rw [maskByte_of_bits] at answer
  obtain ⟨start, link, results⟩ := ends.notices
  exact ⟨s', hs', answer, by rw [ends.interp]; rfl, by rw [ends.interp]; rfl, start, link, ends.planKept rfl, results,
    unchanged⟩

/-- A RESET that is not of one byte is malformed (spec/09 R165). -/
theorem resetFull_of_length {payload : List Byte} (h : payload.length ≠ 1) (s : State) :
    resetFull payload s = (s, .refuse .malformed) := by
  unfold resetFull
  split
  · exact absurd rfl h
  · rfl

/-- Settles O54: the checks, and reset pending with the reset attached to its reply. -/
theorem fullResetWaitsForItsReply : Obligations.FullResetWaitsForItsReply := by
  intro t s f rest h hkind
  have named : f.isKind .reset = true := by simp [Frame.isKind, hkind, ReqKind.ofCode]
  have row (hp : f.payload ≠ [0]) : f.isResetFull = true := by
    rw [Frame.isResetFull, named, Bool.true_and, decide_eq_true_iff]
    exact hp
  refine ⟨fun hlen => ?_, fun x hp hx => ?_, fun hp => ?_⟩
  · exact exec_answeredOnly (r := .refuse .malformed) rfl h (row fun e => hlen (by rw [e]; rfl))
      (resetFull_of_length hlen _) rfl
  · have big (y : Byte) (hy : y.toNat ≤ 1) : x ≠ y := fun e => by
      rw [e] at hx
      omega
    have refused : resetFull [x] ((s.advance t).popped rest) = ((s.advance t).popped rest, .refuse .range) :=
      if_neg (big 1 (by decide))
    refine exec_answeredOnly (r := .refuse .range) rfl h (row fun e => ?_) (hp ▸ refused) rfl
    exact big 0 (by decide) (List.cons.inj (hp.symm.trans e)).1
  · have body : resetFull f.payload ((s.advance t).popped rest) = _ :=
      congrArg (resetFull · ((s.advance t).popped rest)) hp
    obtain ⟨s', hs', answer, unchanged, ends⟩ := exec_taken_of_link (c := .resetFull t)
      (r := { Reply.okWith [] with attached := .fullReset }) rfl h (row (by rw [hp]; decide)) body
      ((reaches_of_rule resetFull_touches body).mono (by decide)) rfl rfl rfl rfl rfl
    exact ⟨s', hs', answer, by rw [ends.interp], by rw [ends.interp]; rfl, ends.sameNotices rfl rfl, unchanged⟩

/-! ### SET LINK -/

/-- A SET LINK that is not of five bytes is malformed (spec/08 R153). -/
theorem setLink_of_length {payload : List Byte} (h : payload.length ≠ 5) (s : State) :
    setLink payload s = (s, .refuse .malformed) := by
  unfold setLink
  split
  · exact absurd rfl h
  · rfl

/-- The rates are told apart by their numbers (spec/08 R153). -/
theorem LinkRate.ofBaud_baud (r : LinkRate) : LinkRate.ofBaud r.baud = some r := by
  cases r <;> decide

/-- A number that is none of the seven is no rate (spec/08 R153). -/
theorem LinkRate.ofBaud_of_not_mem {n : Nat} (h : n ∉ [9600, 19200, 57600, 115200, 230400, 460800, 921600]) :
    LinkRate.ofBaud n = none := by
  refine List.find?_eq_none.mpr fun r _ hr => h ?_
  rw [← of_decide_eq_true hr]
  cases r <;> decide

/-- A SET LINK of a rate or a gap limit that is none (spec/08 R153). -/
theorem setLink_of_range {r0 r1 r2 r3 g : Byte} (s : State)
    (h : ofLeBytes [r0, r1, r2, r3] ∉ [9600, 19200, 57600, 115200, 230400, 460800, 921600] ∨ g.toNat = 0 ∨
      250 < g.toNat) : setLink [r0, r1, r2, r3, g] s = (s, .refuse .range) := by
  unfold setLink
  dsimp only
  rcases h with h | h
  · rw [LinkRate.ofBaud_of_not_mem h]
  · split
    · rfl
    · exact if_pos (by omega)

/-- An accepted SET LINK (spec/08 R153). -/
theorem setLink_of_rate {r0 r1 r2 r3 g : Byte} {r : LinkRate} (s : State) (hr : ofLeBytes [r0, r1, r2, r3] = r.baud)
    (hlow : 1 ≤ g.toNat) (hhigh : g.toNat ≤ 250) : setLink [r0, r1, r2, r3, g] s =
      ({ s with rx := { s.rx with gapLimit := g.toNat } }, { Reply.okWith [] with attached := .rateSwitch r }) := by
  unfold setLink
  dsimp only
  rw [hr, LinkRate.ofBaud_baud]
  exact if_neg (by omega)

/-- Settles O50: the checks, the gap limit at once and the rate with the reply. -/
theorem setLinkAttachesRateSwitch : Obligations.SetLinkAttachesRateSwitch := by
  intro t s f rest h hkind
  have hrow : Frame.isKind .setLink f = true := by simp [Frame.isKind, hkind, ReqKind.ofCode]
  refine ⟨fun hlen => exec_answeredOnly (r := .refuse .malformed) rfl h hrow (setLink_of_length hlen _) rfl,
    fun r0 r1 r2 r3 g hp => ⟨fun hrange => exec_answeredOnly (r := .refuse .range) rfl h hrow
      (hp ▸ setLink_of_range _ hrange) rfl, fun r hr hlow hhigh => ?_⟩⟩
  have body := (congrArg (setLink · ((s.advance t).popped rest)) hp).trans
    (setLink_of_rate ((s.advance t).popped rest) hr hlow hhigh)
  obtain ⟨s', hs', answer, settings, notices, unchanged, ends⟩ := exec_answered_of_reaches (c := .setLink t) rfl h hrow
    body (reaches_of_rule setLink_touches body) (by decide)
  exact ⟨s', hs', answer, settings, notices, unchanged, ends.rx⟩

end Sys2Proof.Machine
end

section
/-! DEFINE PROFILE and ERASE PROFILE: the checks in order and the slot that changes whole (spec/01 R12 to R16). -/

namespace Sys2Proof.Machine

set_option Elab.async false

/-! ### DEFINE PROFILE -/

/-- A DEFINE PROFILE that is not of sixteen bytes is malformed (spec/01 R12). -/
theorem defineProfile_of_length {payload : List Byte} (h : payload.length ≠ 16) (s : State) :
    defineProfile payload s = (s, .refuse .malformed) := by
  unfold defineProfile
  split
  · exact absurd rfl h
  · rfl

section
variable {n w dir order : Byte} {poly seed mask : Nat} {s : State}

/-- The sixteen bytes of a DEFINE PROFILE (spec/10 10.4). -/
def profilePayload (n w dir order : Byte) (poly seed mask : Nat) : List Byte :=
  [n, w] ++ leBytes 4 poly ++ leBytes 4 seed ++ leBytes 4 mask ++ [dir, order]

/-- A DEFINE PROFILE of sixteen bytes is checked field by field (spec/01 R14). -/
theorem defineProfile_of_fields (hpoly : poly < 2 ^ 32) (hseed : seed < 2 ^ 32) (hmask : mask < 2 ^ 32) :
    defineProfile (profilePayload n w dir order poly seed mask) s = withSlot n s fun slot =>
      if 14 ≤ slot.val then (s, .refuse .profileFixed)
      else
        match checkProfile w.toNat poly seed mask dir.toNat order.toNat with
        | .error d => (s, { Reply.refuse .range with detail := d })
        | .ok p => if s.inUse slot then (s, .refuse .profileInUse) else (s.setProfile slot (some p), .okWith []) := by
  have carried {x : Nat} (h : x < 2 ^ 32) : ofLeBytes (leBytes 4 x) = x :=
    (ofLeBytes_leBytes 4 x).trans (Nat.mod_eq_of_lt h)
  have poly4 := carried hpoly
  have seed4 := carried hseed
  have mask4 := carried hmask
  simp only [leBytes] at poly4 seed4 mask4
  simp only [profilePayload, leBytes, List.cons_append, List.nil_append, defineProfile, poly4, seed4,
    mask4] <;> rfl

/-- A slot number of a profile request above 13 is refused (spec/01 R12). -/
theorem defineProfile_of_slot {st : Status} (hpoly : poly < 2 ^ 32) (hseed : seed < 2 ^ 32) (hmask : mask < 2 ^ 32)
    (h : 15 < n.toNat ∧ st = .range ∨ n.toNat ≤ 15 ∧ 13 < n.toNat ∧ st = .profileFixed) :
    defineProfile (profilePayload n w dir order poly seed mask) s = (s, .refuse st) := by
  rw [defineProfile_of_fields hpoly hseed hmask]
  rcases h with ⟨hn, rfl⟩ | ⟨hn, hfixed, rfl⟩
  · exact withSlot_of_above hn s _
  · rw [withSlot_of_slot (slot := ⟨n.toNat, by omega⟩) rfl]
    exact if_pos hfixed

/-- A faulty field is refused with its number (spec/01 R14). -/
theorem defineProfile_of_error {e : Nat} (hpoly : poly < 2 ^ 32) (hseed : seed < 2 ^ 32) (hmask : mask < 2 ^ 32)
    (hn : n.toNat ≤ 13) (h : checkProfile w.toNat poly seed mask dir.toNat order.toNat = .error e) :
    defineProfile (profilePayload n w dir order poly seed mask) s = (s, { Reply.refuse .range with detail := e }) := by
  rw [defineProfile_of_fields hpoly hseed hmask, withSlot_of_slot (slot := ⟨n.toNat, by omega⟩) rfl, h]
  exact if_neg (by simp; omega)

/-- A profile that passes is stored, unless a lane names its slot (spec/01 R13, R14). -/
theorem defineProfile_of_ok {p : Profile} (hpoly : poly < 2 ^ 32) (hseed : seed < 2 ^ 32) (hmask : mask < 2 ^ 32)
    (hn : n.toNat ≤ 13) (h : checkProfile w.toNat poly seed mask dir.toNat order.toNat = .ok p) :
    defineProfile (profilePayload n w dir order poly seed mask) s =
      if s.inUse ⟨n.toNat, by omega⟩ then (s, .refuse .profileInUse)
      else (s.setProfile ⟨n.toNat, by omega⟩ (some p), .okWith []) := by
  rw [defineProfile_of_fields hpoly hseed hmask, withSlot_of_slot (slot := ⟨n.toNat, by omega⟩) rfl, h]
  exact if_neg (by simp; omega)

/-- What the checks of the fields answer as status and detail of the reply, where a lane names the slot (spec/01 R13,
R14). -/
def profileAnswer (st d : Byte) (z : Except Nat Profile) : Prop :=
  (∃ e, z = .error e ∧ st = 3 ∧ d = byteOf e) ∨ (∃ p, z = .ok p) ∧ st = 7 ∧ d = 0

/-- A check that comes first answers, or those after it do. -/
theorem profileAnswer_of_check {c : Prop} [Decidable c] {e : Nat} {st d : Byte} {r : Byte × Byte}
    {z : Except Nat Profile} (h : (st, d) = if c then (3, byteOf e) else r)
    (rest : (st, d) = r → profileAnswer st d z) : profileAnswer st d (if c then .error e else z) := by
  by_cases hc : c
  · rw [if_pos hc] at h ⊢
    cases h
    exact .inl ⟨e, rfl, rfl, rfl⟩
  · rw [if_neg hc] at h ⊢
    exact rest h

/-- The checks of the fields fail with the number of the first faulty one, or pass (spec/01 R14). -/
theorem checkProfile_cases {st d : Byte} (h : (st, d) =
      (if w.toNat < 4 ∨ 32 < w.toNat then (3, 1)
      else if 2 ^ w.toNat ≤ poly ∨ poly % 2 = 0 then (3, 2)
      else if 2 ^ w.toNat ≤ seed then (3, 3) else if 2 ^ w.toNat ≤ mask then (3, 4)
      else if 1 < dir.toNat then (3, 5) else if 1 < order.toNat then (3, 6) else ((7 : Byte), (0 : Byte)))) :
    profileAnswer st d (checkProfile w.toNat poly seed mask dir.toNat order.toNat) :=
  profileAnswer_of_check h fun h => profileAnswer_of_check h fun h => profileAnswer_of_check h fun h =>
    profileAnswer_of_check h fun h => profileAnswer_of_check h fun h => profileAnswer_of_check h fun h => by
      cases h
      exact .inr ⟨⟨_, rfl⟩, rfl, rfl⟩

/-- Fields in range make the profile (spec/01 R2, R14). -/
theorem checkProfile_of_fields (hlow : 4 ≤ w.toNat) (hhigh : w.toNat ≤ 32) (hpoly : poly < 2 ^ w.toNat)
    (hodd : poly % 2 = 1) (hseed : seed < 2 ^ w.toNat) (hmask : mask < 2 ^ w.toNat) (hdir : dir.toNat ≤ 1)
    (horder : order.toNat ≤ 1) : checkProfile w.toNat poly seed mask dir.toNat order.toNat =
      .ok { width := w.toNat, poly := BitVec.ofNat 32 poly, seed := BitVec.ofNat 32 seed,
            finalMask := BitVec.ofNat 32 mask, direction := if dir = 0 then .left else .right,
            byteOrder := if order = 0 then .msbFirst else .lsbFirst } := by
  have zero (x : Byte) : x.toNat = 0 ↔ x = 0 := by rw [← BitVec.toNat_inj]; rfl
  unfold checkProfile
  rw [if_neg (by omega), if_neg (by omega), if_neg (by omega), if_neg (by omega), if_neg (by omega),
    if_neg (by omega)]
  simp only [zero]

end

/-- A slot is in use by the lanes that name its number (spec/01 R13). -/
theorem State.inUse_iff_val {s : State} {slot : Fin 16} : s.inUse slot = true ↔
    ∃ (m : Fin 96) (r : StepRecord) (l : Lane), s.steps[m] = some r ∧ l ∈ r.lanes ∧ l.profile.val = slot.val := by
  simp only [State.inUse_iff, Fin.ext_iff]

/-- A slot number up to 13 that no lane names is not in use (spec/01 R13). -/
theorem State.inUse_eq_false {s : State} {slot : Fin 16}
    (h : ∀ (m : Fin 96) (r : StepRecord) (l : Lane), s.steps[m] = some r → l ∈ r.lanes → l.profile.val ≠ slot.val) :
    s.inUse slot = false := by
  rw [← Bool.not_eq_true, State.inUse_iff_val]
  rintro ⟨m, r, l, hr, hl, he⟩
  exact h m r l hr hl he

/-! ### ERASE PROFILE -/

/-- An ERASE PROFILE that is not of one byte is malformed (spec/01 R12). -/
theorem eraseProfile_of_length {payload : List Byte} (h : payload.length ≠ 1) (s : State) :
    eraseProfile payload s = (s, .refuse .malformed) := by
  unfold eraseProfile
  split
  · exact absurd rfl h
  · rfl

/-- An ERASE PROFILE of a slot number above 15 (spec/01 R12). -/
theorem eraseProfile_of_range {n : Byte} (h : 15 < n.toNat) (s : State) :
    eraseProfile [n] s = (s, .refuse .range) := by
  unfold eraseProfile
  exact withSlot_of_above h s _

/-- An ERASE PROFILE of a fixed slot (spec/01 R12). -/
theorem eraseProfile_of_fixed {n : Byte} (h : n = 14 ∨ n = 15) (s : State) :
    eraseProfile [n] s = (s, .refuse .profileFixed) := by
  rcases h with rfl | rfl <;> rfl

/-- An ERASE PROFILE of a host slot empties it, unless a lane names it (spec/01 R13, R16). -/
theorem eraseProfile_of_host {n : Byte} {k : Fin 14} (h : n.toNat = k.val) (s : State) :
    eraseProfile [n] s =
      if s.inUse (k.castLE (by decide)) then (s, .refuse .profileInUse)
      else (s.setProfile (k.castLE (by decide)) none,
        { Reply.okWith [] with detail := ofBit (s.profileAt (k.castLE (by decide))).isSome }) := by
  unfold eraseProfile
  dsimp only
  rw [withSlot_of_slot (slot := k.castLE (by decide)) h]
  exact if_neg (by simp)

/-! ### The statement -/

/-- A taking that sets one host slot (spec/01 R14, R16). -/
theorem exec_setsProfile {c : Instr} {s : State} {f : Frame} {rest : List Frame} {row : Frame → Bool}
    {body : List Byte → State → State × Reply} {t : Nat} {r : Reply} {slot : Fin 16} {k : Fin 14} {p : Option Profile}
    (hexec : exec c s = .next ((s.advance t).takeRequest row body)) (h : Takes s f rest) (hrow : row f = true)
    (hslot : slot.val = k.val)
    (hbody : body f.payload ((s.advance t).popped rest) = (((s.advance t).popped rest).setProfile slot p, r))
    (hattached : r.attached = .nothing) :
    ∃ s', exec c s = .next s' ∧ answered f rest r.payload s s' ∧ sameSettings s s' ∧ sameNotices s s' ∧
      unchangedBut [.profiles, .interp, .tx] s s' ∧
      ∀ m : Fin 14, s'.profiles[m] = if m = k then p else s.profiles[m] := by
  obtain ⟨s', hs', answer, settings, notices, unchanged, ends⟩ := exec_answered_of_reaches hexec h hrow hbody
    (State.setProfile_touches slot p _) (by decide)
  rw [hattached] at answer
  refine ⟨s', hs', answer, settings, notices, unchanged, fun m => ?_⟩
  rw [ends.profiles, State.setProfile_profiles hslot]
  exact getElem_set_fin s.profiles k m p

/-- Settles O55: the checks of both requests in order, and the one slot that changes. -/
theorem profileSlotsDefinedAndErased : Obligations.ProfileSlotsDefinedAndErased := by
  refine ⟨fun t s f rest h hkind => ?define, fun t s f rest h hkind => ?erase⟩
  case define =>
    have hrow : Frame.isKind .defineProfile f = true := by simp [Frame.isKind, hkind, ReqKind.ofCode]
    refine ⟨fun hlen => exec_answeredOnly (r := .refuse .malformed) rfl h hrow (defineProfile_of_length hlen _) rfl,
      fun n w dir order poly seed mask hpoly hseed hmask hp => ⟨fun st d hst huse => ?_,
        fun hn hlow hhigh hpoly' hodd hseed' hmask' hdir horder hfree => ?_⟩⟩
    · by_cases hrange : 15 < n.toNat
      · cases hst.trans (if_pos hrange)
        exact exec_answeredOnly (r := .refuse .range) rfl h hrow ((congrArg (defineProfile · _) hp).trans
          (defineProfile_of_slot hpoly hseed hmask (.inl ⟨hrange, rfl⟩))) rfl
      replace hst := hst.trans (if_neg hrange)
      by_cases hfixed : 13 < n.toNat
      · cases hst.trans (if_pos hfixed)
        exact exec_answeredOnly (r := .refuse .profileFixed) rfl h hrow ((congrArg (defineProfile · _) hp).trans
          (defineProfile_of_slot hpoly hseed hmask (.inr ⟨by omega, hfixed, rfl⟩))) rfl
      · rcases checkProfile_cases (hst.trans (if_neg hfixed)) with ⟨e, he, rfl, rfl⟩ | ⟨⟨p, hok⟩, rfl, rfl⟩
        · exact exec_answeredOnly (r := { Reply.refuse .range with detail := e }) rfl h hrow
            ((congrArg (defineProfile · _) hp).trans (defineProfile_of_error hpoly hseed hmask (by omega) he)) rfl
        · have used : s.inUse ⟨n.toNat, by omega⟩ = true := State.inUse_iff_val.mpr (huse rfl)
          exact exec_answeredOnly (r := .refuse .profileInUse) rfl h hrow ((congrArg (defineProfile · _) hp).trans
            ((defineProfile_of_ok hpoly hseed hmask (by omega) hok).trans (if_pos used))) rfl
    · have free : s.inUse ⟨n.toNat, by omega⟩ = false := State.inUse_eq_false hfree
      obtain ⟨s', hs', answer, settings, notices, unchanged, profiles⟩ := exec_setsProfile (c := .defineProfile t)
        (k := ⟨n.toNat, by omega⟩) rfl h hrow rfl ((congrArg (defineProfile · _) hp).trans
          ((defineProfile_of_ok hpoly hseed hmask hn
            (checkProfile_of_fields hlow hhigh hpoly' hodd hseed' hmask' hdir horder)).trans
              (if_neg (by rw [← Bool.not_eq_true] at free; exact free)))) rfl
      refine ⟨s', hs', answer, settings, notices, unchanged, fun m => (profiles m).trans ?_⟩
      simp only [Fin.ext_iff]
  case erase =>
    have hrow : Frame.isKind .eraseProfile f = true := by simp [Frame.isKind, hkind, ReqKind.ofCode]
    refine ⟨fun hlen => exec_answeredOnly (r := .refuse .malformed) rfl h hrow (eraseProfile_of_length hlen _) rfl,
      fun n hp => ⟨fun hrange => ?_, fun hfixed => ?_, fun k hk => ⟨fun huse => ?_, fun hfree => ?_⟩⟩⟩
    · exact exec_answeredOnly (r := .refuse .range) rfl h hrow (hp ▸ eraseProfile_of_range hrange _) rfl
    · exact exec_answeredOnly (r := .refuse .profileFixed) rfl h hrow (hp ▸ eraseProfile_of_fixed hfixed _) rfl
    · have used : s.inUse (k.castLE (by decide)) = true := State.inUse_iff_val.mpr huse
      exact exec_answeredOnly (r := .refuse .profileInUse) rfl h hrow
        (hp ▸ (eraseProfile_of_host hk _).trans (if_pos used)) rfl
    · have free : s.inUse (k.castLE (by decide)) = false := State.inUse_eq_false hfree
      obtain ⟨s', hs', answer, settings, notices, unchanged, profiles⟩ := exec_setsProfile (c := .eraseProfile t) (k := k)
        rfl h hrow rfl ((congrArg (eraseProfile · _) hp).trans ((eraseProfile_of_host hk _).trans
          (if_neg (by rw [← Bool.not_eq_true] at free; exact free)))) rfl
      refine ⟨s', hs', ?_, settings, notices, unchanged, profiles⟩
      rw [← s.profileAt_of_host (slot := k.castLE (by decide)) rfl]
      have shown : (if s.profileAt (k.castLE (by decide)) = none then 0 else 1) =
          byteOf (ofBit (s.profileAt (k.castLE (by decide))).isSome) := by
        cases s.profileAt (k.castLE (by decide)) <;> rfl
      rw [shown]
      exact answer

end Sys2Proof.Machine
end

section
/-! The bytes of a lane as READ STEP sends them: every field at its place, and what DEFINE STEP reads back (spec/10 10.5,
R178). -/

namespace Sys2Proof.Machine

set_option Elab.async false

/-! ### Optional fields as bytes -/

/-- Optional fields in their order, each with its value when it is present and its size in bytes. -/
abbrev Values := List (Option Nat × Nat)

/-- Which of the fields are present, with their sizes. -/
def Values.parts (vs : Values) : Parts := vs.map fun v => (v.1.isSome, v.2)

/-- The bytes of the fields present, one directly after another. -/
def Values.bytes (vs : Values) : List Byte := vs.flatMap fun v => optBytes v.2 v.1

/-- Every value fits its bytes. -/
def Values.fit (vs : Values) : Prop := ∀ v ∈ vs, ∀ n, v.1 = some n → n < 256 ^ v.2

/-- A field takes its bytes when it is present. -/
theorem optBytes_length (k : Nat) (x : Option Nat) : (optBytes k x).length = partSize (x.isSome, k) := by
  cases x <;> simp [optBytes, partSize]

/-- The fields present take the bytes their sizes say. -/
theorem Values.bytes_length (vs : Values) : vs.bytes.length = vs.parts.size := by
  induction vs with
  | nil => rfl
  | cons v vs ih =>
    rw [Values.bytes, List.flatMap_cons, List.length_append, optBytes_length]
    refine (congrArg (partSize (v.1.isSome, v.2) + ·) ih).trans ?_
    exact (Parts.size_cons (v.1.isSome, v.2) (Values.parts vs)).symm

/-- Every field stands at its place in the bytes, whatever stands before and after them (spec/10 10.5). -/
theorem Values.field_bytes {vs : Values} (h : vs.fit) (before after : List Byte) (k : Nat) :
    Parts.field vs.parts before.length k (before ++ (vs.bytes ++ after)) = vs[k]?.bind (·.1) := by
  induction vs generalizing before k with
  | nil => rfl
  | cons v vs ih =>
    obtain ⟨fits, rest⟩ := List.forall_mem_cons.mp h
    have bytes : Values.bytes (v :: vs) ++ after = optBytes v.2 v.1 ++ (Values.bytes vs ++ after) := by
      rw [Values.bytes, List.flatMap_cons, List.append_assoc]
      rfl
    rw [bytes, Values.parts, List.map_cons]
    cases k with
    | zero =>
      rw [Parts.field_zero, List.drop_left]
      cases hv : v.1 with
      | none => simp [hv]
      | some n =>
        have taken : (leBytes v.2 n ++ (Values.bytes vs ++ after)).take v.2 = leBytes v.2 n :=
          List.take_left' (leBytes_length v.2 n)
        simp only [Option.isSome_some, if_true, optBytes, taken, ofLeBytes_leBytes, Nat.mod_eq_of_lt (fits n hv),
          List.getElem?_cons_zero, Option.bind_some, hv]
    | succ k =>
      have next := ih rest (before ++ optBytes v.2 v.1) k
      rw [List.length_append, optBytes_length, List.append_assoc] at next
      rw [Parts.field_succ, List.getElem?_cons_succ]
      exact next

/-! ### The values of a lane (spec/10 10.5) -/

/-- The start line of a lane, when it has one. -/
def startLineValue : StartKind → Option Nat
  | .edge e => some (edgeNumber e)
  | .immediate => none
  | .host => none

/-- The stop line of a lane, when it has one. -/
def stopLineValue : StopKind → Option Nat
  | .edge e => some (edgeNumber e)
  | .count _ => none
  | .host => none

/-- The stop count of a lane, when it has one. -/
def stopCountValue : StopKind → Option Nat
  | .edge _ => none
  | .count n => some n
  | .host => none

/-- The optional fields of a lane with their values (spec/10 10.5). -/
def laneValues (l : Lane) : Values :=
  [((probeInput l).map (·.data.toNat), 2), ((probeInput l).map fun p => edgeNumber p.clock, 1),
    (((probeInput l).bind (·.qualifier)).map fun q => senseNumber q.line q.high, 1), (startLineValue l.start, 1),
    (stopLineValue l.stop, 1), (stopCountValue l.stop, 4), (l.sampleLimit, 4), (l.expectedResidue.map (·.toNat), 4),
    (l.expectedCount.map (·.min), 4), (l.expectedCount.map (·.max), 4)]

/-- The first three bytes of a lane (spec/10 10.5). -/
def laneFront (l : Lane) : List Byte :=
  [byteOf (l.unit.val + 16 * modeCode l.mode + 64 * startCode l.start), byteOf (l.profile.val + 32 * stopCode l.stop),
    byteOf (ofBits [(probeInput l).isSome, (probeInput l).isSome, ((probeInput l).bind (·.qualifier)).isSome,
      l.sampleLimit.isSome, l.expectedResidue.isSome, l.expectedCount.isSome])]

/-- The bytes of a lane are its first three and its optional fields. -/
theorem laneBytes_eq (l : Lane) : laneBytes l = laneFront l ++ (laneValues l).bytes := by
  unfold laneBytes laneFront laneValues
  cases hp : probeInput l with
  | none => cases l.start <;> cases l.stop <;> simp [Values.bytes, optBytes, startLineValue, stopLineValue, stopCountValue] <;> rfl
  | some p =>
    cases hq : p.qualifier <;> cases l.start <;> cases l.stop <;>
      simp [Values.bytes, optBytes, startLineValue, stopLineValue, stopCountValue, hq] <;> rfl

/-- The mode codes are 0 to 2. -/
theorem modeCode_le (m : LaneMode) : modeCode m ≤ 2 := by
  cases m <;> simp [modeCode]

/-- The start codes are 0 to 2. -/
theorem startCode_le (st : StartKind) : startCode st ≤ 2 := by
  cases st <;> simp [startCode]

/-- The stop codes are 0 to 2. -/
theorem stopCode_le (sp : StopKind) : stopCode sp ≤ 2 := by
  cases sp <;> simp [stopCode]

section
variable (l : Lane)

/-- The first byte of a lane: unit, mode and start kind (spec/10 10.5). -/
theorem laneFront_first : (byteOf (l.unit.val + 16 * modeCode l.mode + 64 * startCode l.start)).toNat =
    l.unit.val + 16 * modeCode l.mode + 64 * startCode l.start := by
  have unit := l.unit.isLt
  have mode : modeCode l.mode ≤ 2 := modeCode_le l.mode
  have start : startCode l.start ≤ 2 := startCode_le l.start
  rw [byteOf_toNat]
  omega

/-- The second byte of a lane: profile slot and stop kind (spec/10 10.5). -/
theorem laneFront_second : (byteOf (l.profile.val + 32 * stopCode l.stop)).toNat =
    l.profile.val + 32 * stopCode l.stop := by
  have profile := l.profile.isLt
  have stop : stopCode l.stop ≤ 2 := stopCode_le l.stop
  rw [byteOf_toNat]
  omega

end

/-- The bits of a byte made of at most eight bits. -/
theorem byteOf_ofBits_getLsbD {bs : List Bool} {i : Nat} (hi : i < 8) :
    (byteOf (ofBits bs)).getLsbD i = bs.getD i false := by
  rw [byteOf, BitVec.getLsbD_ofNat, decide_eq_true hi, Bool.true_and, ofBits_testBit]

/-- A byte of at most `k` bits is below the power of two of their number. -/
theorem byteOf_ofBits_lt {bs : List Bool} (h : bs.length ≤ 8) : (byteOf (ofBits bs)).toNat < 2 ^ bs.length := by
  have small : 2 ^ bs.length ≤ 256 := Nat.pow_le_pow_right (by decide) h
  have bits := ofBits_lt bs
  rw [byteOf_toNat, Nat.mod_eq_of_lt (by omega)]
  exact bits

/-- A lane's first three bytes say which of its fields are present (spec/10 R178). -/
theorem laneParts_laneBytes (l : Lane) (after : List Byte) :
    laneParts (laneBytes l ++ after) = (laneValues l).parts := by
  have unit := l.unit.isLt
  have profile := l.profile.isLt
  have mode : modeCode l.mode ≤ 2 := modeCode_le l.mode
  have start : (l.unit.val + 16 * modeCode l.mode + 64 * startCode l.start) / 64 = startCode l.start := by omega
  have stop : (l.profile.val + 32 * stopCode l.stop) / 32 % 4 = stopCode l.stop := by
    have : stopCode l.stop ≤ 2 := stopCode_le l.stop
    omega
  have startLine : decide (startCode l.start = 1) = (startLineValue l.start).isSome := by cases l.start <;> rfl
  have stopLine : decide (stopCode l.stop = 0) = (stopLineValue l.stop).isSome := by cases l.stop <;> rfl
  have stopCount : decide (stopCode l.stop = 1) = (stopCountValue l.stop).isSome := by cases l.stop <;> rfl
  rw [laneBytes_eq]
  simp only [laneFront, laneParts, bitAt, List.cons_append, List.nil_append, List.getD_cons_zero, List.getD_cons_succ,
    laneFront_first, laneFront_second, start, stop, startLine, stopLine, stopCount,
    byteOf_ofBits_getLsbD (show 0 < 8 by decide), byteOf_ofBits_getLsbD (show 1 < 8 by decide),
    byteOf_ofBits_getLsbD (show 2 < 8 by decide), byteOf_ofBits_getLsbD (show 3 < 8 by decide),
    byteOf_ofBits_getLsbD (show 4 < 8 by decide), byteOf_ofBits_getLsbD (show 5 < 8 by decide)]
  cases hp : (probeInput l).bind (·.qualifier) <;> simp [Values.parts, laneValues, hp]

/-- The declared length of a lane is that of its bytes (spec/10 R178). -/
theorem laneLength_laneBytes (l : Lane) (after : List Byte) :
    laneLength (laneBytes l ++ after) = (laneBytes l).length := by
  rw [laneLength, laneParts_laneBytes, laneBytes_eq, List.length_append, Values.bytes_length]
  rfl

/-- What a well-formed lane is (spec/04 R64 to R67). -/
theorem Lane.wellFormed_iff {w : Nat} {l : Lane} : l.wellFormed w = true ↔
    l.mode.wellFormed w = true ∧ l.start.allowed l.mode = true ∧ l.stop.allowed l.mode = true ∧
      (∀ n, l.sampleLimit = some n → 1 ≤ n ∧ n < 2 ^ 32) ∧ (∀ x, l.expectedResidue = some x → Word32.fits w x = true) ∧
      ∀ r, l.expectedCount = some r → r.min ≤ r.max ∧ r.max < 2 ^ 32 := by
  simp only [Lane.wellFormed, Bool.and_eq_true, Option.all_eq_true, decide_eq_true_eq, CountRange.wellFormed, and_assoc]

/-- A line-sense byte fits a byte (spec/10 10.5 note 1). -/
theorem senseNumber_lt (line : Fin 16) (sense : Bool) : senseNumber line sense < 64 := by
  have := line.isLt
  unfold senseNumber
  split <;> omega

/-- The values of a well-formed lane fit their bytes (spec/10 10.5). -/
theorem laneValues_fit {w : Nat} {l : Lane} (h : l.wellFormed w = true) : (laneValues l).fit := by
  obtain ⟨-, -, stop, limit, -, count⟩ := Lane.wellFormed_iff.mp h
  simp only [Values.fit, laneValues, List.forall_mem_cons, Option.map_eq_some_iff]
  refine ⟨?_, ?_, ?_, ?_, ?_, ?_, ?_, ?_, ?_, ?_, by simp⟩
  · rintro n ⟨p, -, rfl⟩
    exact p.data.isLt
  · rintro n ⟨p, -, rfl⟩
    exact (senseNumber_lt _ _).trans (by decide)
  · rintro n ⟨q, -, rfl⟩
    exact (senseNumber_lt _ _).trans (by decide)
  · intro n hn
    cases hs : l.start <;> simp [hs, startLineValue] at hn
    rw [← hn]
    exact (senseNumber_lt _ _).trans (by decide)
  · intro n hn
    cases hs : l.stop <;> simp [hs, stopLineValue] at hn
    rw [← hn]
    exact (senseNumber_lt _ _).trans (by decide)
  · intro n hn
    cases hs : l.stop <;> simp [hs, stopCountValue] at hn
    rw [hs] at stop
    rw [← hn]
    simp only [StopKind.allowed, Bool.and_eq_true, decide_eq_true_eq] at stop
    exact stop.2
  · exact fun n hn => (limit n hn).2
  · rintro n ⟨x, -, rfl⟩
    exact x.isLt
  · rintro n ⟨r, hr, rfl⟩
    obtain ⟨le, lt⟩ := count r hr
    exact Nat.lt_of_le_of_lt le lt
  · rintro n ⟨r, hr, rfl⟩
    exact (count r hr).2

/-- Field `k` of a lane's bytes is its value (spec/10 10.5). -/
theorem laneField_laneBytes {w : Nat} {l : Lane} (h : l.wellFormed w = true) (after : List Byte) (k : Nat) :
    (laneParts (laneBytes l ++ after)).field 3 k (laneBytes l ++ after) = (laneValues l)[k]?.bind (·.1) := by
  rw [laneParts_laneBytes, laneBytes_eq, List.append_assoc]
  exact Values.field_bytes (laneValues_fit h) (laneFront l) after k

end Sys2Proof.Machine
end

section
/-! The bytes of a step record as READ STEP sends them, and the two requests on step slots (spec/04 R75, R76, spec/10
10.5). -/

namespace Sys2Proof.Machine

set_option Elab.async false

/-! ### A lane at its places (spec/10 10.5) -/

section
variable (l : Lane) (after : List Byte)

/-- The first byte of a lane's bytes. -/
theorem laneBytes_first : ((laneBytes l ++ after).getD 0 0).toNat =
    l.unit.val + 16 * modeCode l.mode + 64 * startCode l.start := by
  rw [laneBytes_eq]
  exact laneFront_first l

/-- The second byte of a lane's bytes. -/
theorem laneBytes_second : ((laneBytes l ++ after).getD 1 0).toNat = l.profile.val + 32 * stopCode l.stop := by
  rw [laneBytes_eq]
  exact laneFront_second l

/-- The third byte of a lane's bytes: the presence bits. -/
theorem laneBytes_third : (laneBytes l ++ after).getD 2 0 =
    byteOf (ofBits [(probeInput l).isSome, (probeInput l).isSome, ((probeInput l).bind (·.qualifier)).isSome,
      l.sampleLimit.isSome, l.expectedResidue.isSome, l.expectedCount.isSome]) := by
  rw [laneBytes_eq]
  rfl

end

/-- The probe fields of a lane stand at their places (spec/10 10.5). -/
theorem probeLaidOut_laneBytes {w : Nat} {l : Lane} {p : ProbeInput} (h : l.wellFormed w = true)
    (hp : probeInput l = some p) (after : List Byte) : probeLaidOut p (laneBytes l ++ after) := by
  refine ⟨(laneField_laneBytes h after 0).trans ?_, (laneField_laneBytes h after 1).trans ?_,
    (laneField_laneBytes h after 2).trans ?_⟩ <;> simp [laneValues, hp]

/-- Every field of a well-formed lane stands at its place in its bytes (spec/10 10.5, R178). -/
theorem laneLaidOut_laneBytes {w : Nat} {l : Lane} (h : l.wellFormed w = true) (after : List Byte) :
    laneLaidOut l (laneBytes l ++ after) := by
  have unit := l.unit.isLt
  have profile := l.profile.isLt
  have mode := modeCode_le l.mode
  have start := startCode_le l.start
  have stop := stopCode_le l.stop
  have field := laneField_laneBytes h after
  have modeField : ((laneBytes l ++ after).getD 0 0).toNat / 16 % 4 = modeCode l.mode := by
    rw [laneBytes_first]
    omega
  have startField : ((laneBytes l ++ after).getD 0 0).toNat / 64 = startCode l.start := by
    rw [laneBytes_first]
    omega
  have stopField : ((laneBytes l ++ after).getD 1 0).toNat / 32 = stopCode l.stop := by
    rw [laneBytes_second]
    omega
  refine ⟨?_, ?_, ?mode, ?start, ?stop, ?_, (field 6).trans (by simp [laneValues]), (field 7).trans (by simp [laneValues]),
    (field 8).trans (by simp [laneValues]), (field 9).trans (by simp [laneValues])⟩
  case mode =>
    cases hm : l.mode with
    | serial p => exact ⟨modeField.trans (by rw [hm]; rfl), probeLaidOut_laneBytes h (by simp [probeInput, hm]) after⟩
    | parallel p => exact ⟨modeField.trans (by rw [hm]; rfl), probeLaidOut_laneBytes h (by simp [probeInput, hm]) after⟩
    | host =>
      have none : probeInput l = none := by simp [probeInput, hm]
      refine ⟨modeField.trans (by rw [hm]; rfl), ?_⟩
      rw [laneBytes_third, none, byteOf_toNat]
      simp only [ofBits, ofBit, Option.isSome_none, Option.bind_none, Bool.false_eq_true, if_false]
      omega
  case start =>
    cases hs : l.start with
    | immediate => exact startField.trans (by rw [hs]; rfl)
    | edge e => exact ⟨startField.trans (by rw [hs]; rfl), (field 3).trans (by simp [laneValues, hs, startLineValue])⟩
    | host => exact startField.trans (by rw [hs]; rfl)
  case stop =>
    cases hs : l.stop with
    | edge e => exact ⟨stopField.trans (by rw [hs]; rfl), (field 4).trans (by simp [laneValues, hs, stopLineValue])⟩
    | count n => exact ⟨stopField.trans (by rw [hs]; rfl), (field 5).trans (by simp [laneValues, hs, stopCountValue])⟩
    | host => exact stopField.trans (by rw [hs]; rfl)
  · rw [laneBytes_first]
    omega
  · rw [laneBytes_second]
    omega
  · rw [laneBytes_third]
    exact byteOf_ofBits_lt (bs := [_, _, _, _, _, _]) (by simp)

/-! ### Lanes one directly after another (spec/10 R178) -/

section
variable (l : Lane) (after : List Byte)

/-- The bytes of a lane at the front. -/
theorem laneBytes_take : (laneBytes l ++ after).take (laneLength (laneBytes l ++ after)) = laneBytes l :=
  List.take_left' (laneLength_laneBytes l after).symm

/-- The bytes after a lane. -/
theorem laneBytes_drop : (laneBytes l ++ after).drop (laneLength (laneBytes l ++ after)) = after :=
  List.drop_left' (laneLength_laneBytes l after).symm

/-- A lane has its declared length. -/
theorem laneLength_le_length : laneLength (laneBytes l ++ after) ≤ (laneBytes l ++ after).length := by
  rw [laneLength_laneBytes, List.length_append]
  exact Nat.le_add_right _ _

end

/-- The bytes of lanes have their declared lengths. -/
theorem lanesFit_laneBytes (ls : List Lane) : lanesFit ls.length (ls.flatMap laneBytes) := by
  induction ls with
  | nil => rfl
  | cons l ls ih =>
    rw [List.flatMap_cons]
    refine ⟨laneLength_le_length l _, ?_⟩
    rw [laneBytes_drop]
    exact ih

/-- Well-formed lanes stand one directly after another in their bytes. -/
theorem lanesStand_laneBytes {ls : List Lane} (h : ∀ l ∈ ls, ∃ w, l.wellFormed w = true) :
    lanesStand laneLaidOut ls (ls.flatMap laneBytes) := by
  induction ls with
  | nil => rfl
  | cons l ls ih =>
    obtain ⟨⟨w, hl⟩, hls⟩ := List.forall_mem_cons.mp h
    rw [List.flatMap_cons]
    refine ⟨?_, ?_⟩
    · rw [laneBytes_take, ← List.append_nil (laneBytes l)]
      exact laneLaidOut_laneBytes hl []
    · rw [laneBytes_drop]
      exact ih hls

/-! ### A step record at its places (spec/10 10.5) -/

/-- A flag pattern as a number of one byte (spec/10 10.5). -/
def patternNumber (v : Vector PatternValue 4) : Nat :=
  patternCode v[0] + 4 * patternCode v[1] + 16 * patternCode v[2] + 64 * patternCode v[3]

/-- The optional fields of a step header with their values (spec/10 10.5). -/
def stepValues (r : StepRecord) : Values :=
  [(r.settle, 2), (r.pattern.map patternNumber, 1), ((onFailCode r.onFail).2.1, 1), ((onFailCode r.onFail).2.2, 1)]

/-- The first eight bytes of a step record (spec/10 10.5). -/
def stepFront (r : StepRecord) : List Byte :=
  [byteOf r.number.val, byteOf r.lanes.length] ++ leBytes 2 r.label.toNat ++ leBytes 2 r.timeLimit ++
    [byteOf (onFailCode r.onFail).1, byteOf (ofBits [r.settle.isSome, r.pattern.isSome,
      (onFailCode r.onFail).2.1.isSome, (onFailCode r.onFail).2.2.isSome])]

/-- The bytes of a step record are its first eight, its optional fields and its lanes. -/
theorem stepBytes_eq (r : StepRecord) :
    stepBytes r = stepFront r ++ ((stepValues r).bytes ++ r.lanes.flatMap laneBytes) := by
  unfold stepBytes stepFront stepValues
  cases r.pattern <;> simp [Values.bytes, optBytes, leBytes, patternByte, patternNumber]

/-- The eighth byte of a step record says which of its fields are present (spec/10 R178). -/
theorem headerParts_stepBytes (r : StepRecord) : headerParts (stepBytes r) = (stepValues r).parts := by
  rw [stepBytes_eq]
  simp only [stepFront, leBytes, headerParts, bitAt, List.cons_append, List.nil_append, List.getD_cons_zero,
    List.getD_cons_succ, byteOf_ofBits_getLsbD (show 0 < 8 by decide), byteOf_ofBits_getLsbD (show 1 < 8 by decide),
    byteOf_ofBits_getLsbD (show 2 < 8 by decide), byteOf_ofBits_getLsbD (show 3 < 8 by decide)]
  simp [Values.parts, stepValues]

/-- The declared length of a step header is that of its first eight bytes and its optional fields. -/
theorem headerLength_stepBytes (r : StepRecord) :
    headerLength (stepBytes r) = (stepFront r ++ (stepValues r).bytes).length := by
  rw [headerLength, headerParts_stepBytes, List.length_append, Values.bytes_length]
  rfl

/-- The lanes follow the header. -/
theorem stepBytes_drop (r : StepRecord) :
    (stepBytes r).drop (headerLength (stepBytes r)) = r.lanes.flatMap laneBytes := by
  have bytes : stepBytes r = (stepFront r ++ (stepValues r).bytes) ++ r.lanes.flatMap laneBytes := by
    rw [stepBytes_eq, List.append_assoc]
  rw [headerLength_stepBytes, bytes]
  exact List.drop_left' rfl

/-- A header stands whole in the bytes of its record. -/
theorem headerLength_le_length (r : StepRecord) : headerLength (stepBytes r) ≤ (stepBytes r).length := by
  rw [headerLength_stepBytes, stepBytes_eq, ← List.append_assoc, List.length_append (bs := List.flatMap _ _)]
  exact Nat.le_add_right _ _

/-- The codes of a pattern are 0 to 2. -/
theorem patternCode_le (v : PatternValue) : patternCode v ≤ 2 := by
  cases v <;> decide

/-- The values of a well-formed record fit their bytes (spec/10 10.5). -/
theorem stepValues_fit {width : Fin 16 → Option Nat} {r : StepRecord} (h : r.wellFormed width = true) :
    (stepValues r).fit := by
  obtain ⟨-, -, -, -, settle, onFail, -⟩ := StepRecord.wellFormed_iff.mp h
  simp only [Values.fit, stepValues, List.forall_mem_cons, Option.map_eq_some_iff]
  refine ⟨settle, ?pattern, ?retry, ?exhaust, by simp⟩
  case pattern =>
    rintro n ⟨v, -, rfl⟩
    have first := patternCode_le v[0]
    have second := patternCode_le v[1]
    have third := patternCode_le v[2]
    have fourth := patternCode_le v[3]
    unfold patternNumber
    omega
  case retry =>
    intro n hn
    match hf : r.onFail with
    | .cont => simp [hf, onFailCode] at hn
    | .halt => simp [hf, onFailCode] at hn
    | .retry k x =>
      have limit : 1 ≤ k ∧ k ≤ 7 := by simpa [hf, OnFail.wellFormed] using onFail
      have : k = n := by cases x <;> simpa [hf, onFailCode] using hn
      omega
  case exhaust =>
    intro n hn
    match hf : r.onFail with
    | .cont => simp [hf, onFailCode] at hn
    | .halt => simp [hf, onFailCode] at hn
    | .retry k .cont =>
      have : 0 = n := by simpa [hf, onFailCode] using hn
      omega
    | .retry k .halt =>
      have : 1 = n := by simpa [hf, onFailCode] using hn
      omega

/-- Field `k` of a step header is its value (spec/10 10.5). -/
theorem headerField_stepBytes {width : Fin 16 → Option Nat} {r : StepRecord} (h : r.wellFormed width = true) (k : Nat) :
    (headerParts (stepBytes r)).field 8 k (stepBytes r) = (stepValues r)[k]?.bind (·.1) := by
  rw [headerParts_stepBytes, stepBytes_eq]
  exact Values.field_bytes (stepValues_fit h) (stepFront r) (r.lanes.flatMap laneBytes) k

section
variable {width : Fin 16 → Option Nat} {r : StepRecord}

/-- The first byte of a record is its number. -/
theorem stepBytes_number (r : StepRecord) : ((stepBytes r).getD 0 0).toNat = r.number.val := by
  have := r.number.isLt
  rw [stepBytes_eq]
  exact (byteOf_toNat _).trans (Nat.mod_eq_of_lt (by omega))

/-- The second byte of a record is the number of its lanes. -/
theorem stepBytes_count (h : r.wellFormed width = true) : ((stepBytes r).getD 1 0).toNat = r.lanes.length := by
  obtain ⟨-, most, -⟩ := StepRecord.wellFormed_iff.mp h
  rw [stepBytes_eq]
  exact (byteOf_toNat _).trans (Nat.mod_eq_of_lt (by omega))

/-- Bytes 2 and 3 of a record are its label. -/
theorem stepBytes_label (r : StepRecord) : ofLeBytes (((stepBytes r).drop 2).take 2) = r.label.toNat := by
  rw [stepBytes_eq]
  exact ofLeBytes_leBytes_toNat (w := 16) (k := 2) (by norm_num) r.label

/-- Bytes 4 and 5 of a record are its time limit. -/
theorem stepBytes_timeLimit (h : r.wellFormed width = true) :
    ofLeBytes (((stepBytes r).drop 4).take 2) = r.timeLimit := by
  obtain ⟨-, -, -, limit, -⟩ := StepRecord.wellFormed_iff.mp h
  rw [stepBytes_eq]
  exact (ofLeBytes_leBytes 2 r.timeLimit).trans (Nat.mod_eq_of_lt limit)

/-- Byte 6 of a record is the code of its on-fail field. -/
theorem stepBytes_onFail (r : StepRecord) : ((stepBytes r).getD 6 0).toNat = (onFailCode r.onFail).1 := by
  have small : (onFailCode r.onFail).1 < 256 := by
    match r.onFail with
    | .cont | .halt | .retry _ .cont | .retry _ .halt => simp [onFailCode]
  rw [stepBytes_eq]
  exact (byteOf_toNat _).trans (Nat.mod_eq_of_lt small)

/-- Byte 7 of a record has its four highest bits clear. -/
theorem stepBytes_presence (r : StepRecord) : ((stepBytes r).getD 7 0).toNat < 16 := by
  rw [stepBytes_eq]
  exact byteOf_ofBits_lt (bs := [_, _, _, _]) (by simp)

/-- Two bits of a pattern number name the value of a line (spec/10 10.5). -/
theorem patternNumber_digit (v : Vector PatternValue 4) (n : Fin 4) :
    patternNumber v / 4 ^ n.val % 4 = patternCode v[n] := by
  have first := patternCode_le v[0]
  have second := patternCode_le v[1]
  have third := patternCode_le v[2]
  have fourth := patternCode_le v[3]
  unfold patternNumber
  fin_cases n <;> simp <;> omega

/-- Every field of a well-formed record stands at its place in its bytes (spec/10 10.5, R178). -/
theorem stepLaidOut_stepBytes (h : r.wellFormed width = true) : stepLaidOut r (stepBytes r) := by
  have field := headerField_stepBytes h
  obtain ⟨-, -, -, -, -, -, lanes⟩ := StepRecord.wellFormed_iff.mp h
  refine ⟨⟨headerLength_le_length r, ?fit⟩, stepBytes_number r, stepBytes_count h, stepBytes_label r,
    stepBytes_timeLimit h, stepBytes_presence r, (field 0).trans (by simp [stepValues]), fun hp => ?noPattern,
    fun v hp => ?pattern, ?onFail, ?lanes⟩
  case fit =>
    rw [stepBytes_count h, stepBytes_drop]
    exact lanesFit_laneBytes r.lanes
  case noPattern => exact (field 1).trans (by simp [stepValues, hp])
  case pattern =>
    refine ⟨patternNumber v, (field 1).trans (by simp [stepValues, hp]), fun n => ?_⟩
    rw [patternNumber_digit]
    cases v[n] <;> rfl
  case onFail =>
    have code := stepBytes_onFail r
    match hf : r.onFail with
    | .cont =>
      exact ⟨code.trans (by rw [hf]; rfl), (field 2).trans (by simp [stepValues, hf, onFailCode]),
        (field 3).trans (by simp [stepValues, hf, onFailCode])⟩
    | .halt =>
      exact ⟨code.trans (by rw [hf]; rfl), (field 2).trans (by simp [stepValues, hf, onFailCode]),
        (field 3).trans (by simp [stepValues, hf, onFailCode])⟩
    | .retry k .cont =>
      exact ⟨code.trans (by rw [hf]; rfl), (field 2).trans (by simp [stepValues, hf, onFailCode]),
        (field 3).trans (by simp [stepValues, hf, onFailCode])⟩
    | .retry k .halt =>
      exact ⟨code.trans (by rw [hf]; rfl), (field 2).trans (by simp [stepValues, hf, onFailCode]),
        (field 3).trans (by simp [stepValues, hf, onFailCode])⟩
  case lanes =>
    rw [stepBytes_drop]
    exact lanesStand_laneBytes fun l hl => by
      obtain ⟨w, -, hw⟩ := lanes l hl
      exact ⟨w, hw⟩

end

/-! ### READ STEP and ERASE STEPS (spec/04 R75, R76) -/

/-- A READ STEP that is not of one byte is malformed. -/
theorem readStep_of_length {payload : List Byte} (h : payload.length ≠ 1) (s : State) :
    readStep payload s = (s, .refuse .malformed) := by
  unfold readStep
  split
  · exact absurd rfl h
  · rfl

/-- A READ STEP of a number above 95 is refused. -/
theorem readStep_of_range {n : Byte} (h : 95 < n.toNat) (s : State) : readStep [n] s = (s, .refuse .range) :=
  dif_neg (by omega)

/-- A READ STEP of a slot answers what the slot holds. -/
theorem readStep_of_slot {n : Byte} {k : Fin 96} (h : n.toNat = k.val) (s : State) :
    readStep [n] s = (s, (s.steps[k]).elim (.refuse .stepEmpty) fun r => .okWith (stepBytes r)) := by
  obtain ⟨i, hi⟩ := k
  dsimp only at h
  subst h
  refine (dif_pos hi).trans ?_
  simp only [Fin.getElem_fin]
  cases s.steps[n.toNat] <;> rfl

/-- An ERASE STEPS that is not of two bytes is malformed. -/
theorem eraseSteps_of_length {payload : List Byte} (h : payload.length ≠ 2) (s : State) :
    eraseSteps payload s = (s, .refuse .malformed) := by
  unfold eraseSteps
  split
  · exact absurd rfl h
  · rfl

/-- A number lies in a range exactly from its first to its last. -/
theorem inRange_iff {first last n : Nat} : inRange first last n = true ↔ first ≤ n ∧ n ≤ last := by
  rw [inRange, Bool.and_eq_true, decide_eq_true_iff, decide_eq_true_iff]

/-- The step table with a range emptied. -/
def State.withoutSteps (s : State) (first last : Nat) : State :=
  { s with steps := Vector.ofFn fun n => if inRange first last n.val then none else s.steps[n] }

/-- A slot of the range is empty, and every other stands. -/
theorem State.withoutSteps_steps (s : State) (first last : Nat) (m : Fin 96) :
    (s.withoutSteps first last).steps[m] = if first ≤ m.val ∧ m.val ≤ last then none else s.steps[m] := by
  rw [State.withoutSteps, getElem_ofFn_fin]
  simp only [inRange_iff]

/-- An ERASE STEPS in IDLE empties its range (R76). -/
theorem eraseSteps_of_range {a b : Byte} {s : State} (hplan : s.seq.plan = .idle) (hle : a.toNat ≤ b.toNat)
    (hlast : b.toNat ≤ 95) : eraseSteps [a, b] s =
      (s.withoutSteps a.toNat b.toNat, .okWith [byteOf (s.definedIn a.toNat b.toNat)]) :=
  (if_neg (by simp [hplan])).trans (if_neg (by omega))

/-- The records a range holds, counted. -/
theorem State.definedIn_eq (s : State) (first last : Nat) : s.definedIn first last =
    (List.finRange 96).countP fun m => decide (first ≤ m.val) && decide (m.val ≤ last) && s.steps[m].isSome :=
  List.countP_eq_length_filter.symm

/-- Settles O60, by the bytes of each field at its place and the slots of the range. -/
theorem stepSlotsReadAndErased : Obligations.StepSlotsReadAndErased := by
  refine ⟨fun t s f rest h hkind => ?read, fun t s f rest h hkind => ?erase⟩
  case read =>
    have hrow : Frame.isKind .readStep f = true := by simp [Frame.isKind, hkind, ReqKind.ofCode]
    refine ⟨fun hlen => exec_answeredOnly (r := .refuse .malformed) rfl h hrow (readStep_of_length hlen _) rfl,
      fun n hp => ⟨fun hrange => ?_, fun k hk => ?_⟩⟩
    · exact exec_answeredOnly (r := .refuse .range) rfl h hrow ((congrArg (readStep · _) hp).trans
        (readStep_of_range hrange _)) rfl
    · have body := (congrArg (readStep · ((s.advance t).popped rest)) hp).trans (readStep_of_slot hk _)
      have slot : ((s.advance t).popped rest).steps[k] = s.steps[k] := rfl
      rw [slot] at body
      refine ⟨fun hnone => ?_, fun r hr => ⟨?_, fun width hw => stepLaidOut_stepBytes hw⟩⟩
      · rw [hnone] at body
        exact exec_answeredOnly (r := .refuse .stepEmpty) rfl h hrow body rfl
      · rw [hr] at body
        exact exec_answeredOnly (r := .okWith (stepBytes r)) rfl h hrow body rfl
  case erase =>
    have hrow : Frame.isKind .eraseSteps f = true := by simp [Frame.isKind, hkind, ReqKind.ofCode]
    refine ⟨fun hlen => exec_answeredOnly (r := .refuse .malformed) rfl h hrow (eraseSteps_of_length hlen _) rfl,
      fun a b hp => ⟨fun hactive => ?_, fun hidle hrange => ?_, fun hidle hle hlast => ?_⟩⟩
    · exact exec_answeredOnly (r := eraseRefusal .planActive) rfl h hrow ((congrArg (eraseSteps · _) hp).trans
        (if_pos hactive)) rfl
    · exact exec_answeredOnly (r := eraseRefusal .range) rfl h hrow ((congrArg (eraseSteps · _) hp).trans
        ((if_neg (by simp only [ne_eq, not_not]; exact hidle)).trans (if_pos hrange))) rfl
    · have body := (congrArg (eraseSteps · ((s.advance t).popped rest)) hp).trans (eraseSteps_of_range hidle hle hlast)
      obtain ⟨s', hs', answer, settings, notices, unchanged, ends⟩ := exec_answered_of_reaches (c := .eraseSteps t) rfl h
        hrow body (reaches_of_rule eraseSteps_touches body) (by decide)
      refine ⟨s', hs', ?_, settings, notices, unchanged, fun m => ?_⟩
      · rw [State.definedIn_eq] at answer
        exact answer
      · rw [ends.steps]
        exact State.withoutSteps_steps _ _ _ m

end Sys2Proof.Machine
end

section
/-! What DEFINE STEP reads back of the bytes that READ STEP sends (spec/04 R75, spec/10 10.5). -/

namespace Sys2Proof.Machine

set_option Elab.async false

/-! ### A lane read back (spec/10 10.5) -/

/-- A line-sense byte is read back (spec/10 10.5 note 1). -/
theorem lineSense_senseNumber (line : Fin 16) (sense : Bool) : lineSense (senseNumber line sense) = some (line, sense) := by
  have hline := line.isLt
  have low : senseNumber line sense % 32 = line.val := by
    cases sense <;> simp [senseNumber] <;> omega
  have high : senseNumber line sense / 32 % 4 = if sense then 1 else 0 := by
    cases sense <;> simp [senseNumber] <;> omega
  rw [lineSense, dif_pos (low ▸ hline), high]
  cases sense <;> simp [low]

/-- The byte of an edge is read back. -/
theorem lineEdgeOf_edgeNumber (e : LineEdge) : lineEdgeOf (edgeNumber e) = some e := by
  obtain ⟨line, edge⟩ := e
  rw [lineEdgeOf, edgeNumber, lineSense_senseNumber]
  cases edge <;> rfl

/-- The byte of a level is read back. -/
theorem lineLevelOf_senseNumber (q : LineLevel) : lineLevelOf (senseNumber q.line q.high) = some q := by
  rw [lineLevelOf, lineSense_senseNumber]
  rfl

/-- The fields of a lane as its bytes hold them (spec/10 10.5). -/
def laneRaw (l : Lane) : RawLane :=
  { unit := l.unit.val, mode := modeCode l.mode, startKind := startCode l.start, slot := l.profile.val,
    stopKind := stopCode l.stop, data := (probeInput l).map (·.data.toNat),
    clock := (probeInput l).map fun p => edgeNumber p.clock,
    qualifier := ((probeInput l).bind (·.qualifier)).map fun q => senseNumber q.line q.high,
    startLine := startLineValue l.start,
    stopParam := if stopCode l.stop = 0 then stopLineValue l.stop else stopCountValue l.stop,
    sampleLimit := l.sampleLimit, expectedResidue := l.expectedResidue.map (·.toNat),
    countMin := l.expectedCount.map (·.min), countMax := l.expectedCount.map (·.max) }

/-- What the bytes of a lane are read as. -/
theorem rawLaneOf_laneBytes {w : Nat} {l : Lane} (h : l.wellFormed w = true) (after : List Byte) :
    rawLaneOf (laneBytes l ++ after) (fun k => (laneParts (laneBytes l ++ after)).field 3 k (laneBytes l ++ after)) =
      laneRaw l := by
  have unit := l.unit.isLt
  have profile := l.profile.isLt
  have mode := modeCode_le l.mode
  have start := startCode_le l.start
  have stop := stopCode_le l.stop
  have first := laneBytes_first l after
  have second := laneBytes_second l after
  have unitField : fieldOf ((laneBytes l ++ after).getD 0 0) 0 4 = l.unit.val := by
    rw [fieldOf, first]
    omega
  have modeField : fieldOf ((laneBytes l ++ after).getD 0 0) 4 2 = modeCode l.mode := by
    rw [fieldOf, first]
    omega
  have startField : fieldOf ((laneBytes l ++ after).getD 0 0) 6 2 = startCode l.start := by
    rw [fieldOf, first]
    omega
  have slotField : fieldOf ((laneBytes l ++ after).getD 1 0) 0 5 = l.profile.val := by
    rw [fieldOf, second]
    omega
  have stopField : fieldOf ((laneBytes l ++ after).getD 1 0) 5 2 = stopCode l.stop := by
    rw [fieldOf, second]
    omega
  simp only [rawLaneOf, laneField_laneBytes h, unitField, modeField, startField, slotField, stopField]
  simp [laneRaw, laneValues]

/-- The probe fields of a lane are read back. -/
theorem probeFields_laneRaw {l : Lane} {p : ProbeInput} (hp : probeInput l = some p) :
    probeFields (laneRaw l) = some p := by
  refine probeFields_eq_some.mpr ⟨⟨p.data.toNat, by simp [laneRaw, hp], by simp⟩,
    ⟨edgeNumber p.clock, by simp [laneRaw, hp], lineEdgeOf_edgeNumber p.clock⟩, ?_⟩
  cases hq : p.qualifier with
  | none => exact .inl ⟨by simp [laneRaw, hp, hq], rfl⟩
  | some q => exact .inr ⟨senseNumber q.line q.high, q, by simp [laneRaw, hp, hq], rfl, lineLevelOf_senseNumber q⟩

/-- The mode of a lane is read back. -/
theorem modeOf_laneRaw (l : Lane) : modeOf (laneRaw l) = some l.mode := by
  refine (modeOf_eq_some (Nat.lt_succ_of_le (modeCode_le l.mode))).mpr ?_
  cases hm : l.mode with
  | serial p => exact .inl ⟨by simp [laneRaw, hm, modeCode], p, probeFields_laneRaw (by simp [probeInput, hm]), rfl⟩
  | parallel p =>
    exact .inr (.inl ⟨by simp [laneRaw, hm, modeCode], p, probeFields_laneRaw (by simp [probeInput, hm]), rfl⟩)
  | host =>
    have none : probeInput l = none := by simp [probeInput, hm]
    exact .inr (.inr ⟨by simp [laneRaw, hm, modeCode], rfl, by simp [laneRaw, none], by simp [laneRaw, none],
      by simp [laneRaw, none]⟩)

/-- The start of a lane is read back, when its mode allows it. -/
theorem startOf_laneRaw {l : Lane} (h : l.start.allowed l.mode = true) :
    startOf l.mode (laneRaw l) = some l.start := by
  refine startOf_eq_some.mpr ?_
  cases hs : l.start with
  | immediate => exact .inl ⟨by simp [laneRaw, hs, startCode], rfl⟩
  | edge e =>
    rw [hs] at h
    exact .inr (.inl ⟨by simp [laneRaw, hs, startCode], of_decide_eq_true h, edgeNumber e, e,
      by simp [laneRaw, hs, startLineValue], lineEdgeOf_edgeNumber e, rfl⟩)
  | host => exact .inr (.inr ⟨by simp [laneRaw, hs, startCode], rfl⟩)

/-- The stop of a lane is read back, when its mode allows it. -/
theorem stopOf_laneRaw {l : Lane} (h : l.stop.allowed l.mode = true) : stopOf l.mode (laneRaw l) = some l.stop := by
  refine stopOf_eq_some.mpr ?_
  cases hs : l.stop with
  | edge e =>
    rw [hs] at h
    exact .inl ⟨by simp [laneRaw, hs, stopCode], of_decide_eq_true h, edgeNumber e, e,
      by simp [laneRaw, hs, stopCode, stopLineValue], lineEdgeOf_edgeNumber e, rfl⟩
  | count n =>
    rw [hs] at h
    have pos : 1 ≤ n ∧ n < 2 ^ 32 := by simpa [StopKind.allowed] using h
    exact .inr (.inl ⟨by simp [laneRaw, hs, stopCode], n, by simp [laneRaw, hs, stopCode, stopCountValue], by omega, rfl⟩)
  | host => exact .inr (.inr ⟨by simp [laneRaw, hs, stopCode], rfl⟩)

/-- A well-formed lane passes the checks of DEFINE STEP (spec/04 R72, R73). -/
theorem lanePasses_laneRaw {w : Nat} {l : Lane} (h : l.wellFormed w = true) :
    LanePasses w (laneRaw l) l.mode l.start l.stop := by
  obtain ⟨mode, start, stop, limit, residue, count⟩ := Lane.wellFormed_iff.mp h
  exact
  { modeCode := Nat.lt_succ_of_le (modeCode_le l.mode)
    mode := modeOf_laneRaw l
    start := startOf_laneRaw start
    stop := stopOf_laneRaw stop
    limit := fun h0 => absurd (limit 0 h0).1 (by decide)
    data := by cases hm : l.mode <;> rw [hm] at mode <;> exact mode
    residue := by
      intro x hx
      obtain ⟨y, hy, rfl⟩ := Option.map_eq_some_iff.mp hx
      exact of_decide_eq_true (residue y hy)
    count := by
      intro lo hi hlo hhi
      obtain ⟨r, hr, rfl⟩ := Option.map_eq_some_iff.mp hlo
      obtain ⟨q, hq, rfl⟩ := Option.map_eq_some_iff.mp hhi
      obtain rfl := Option.some.inj (hr.symm.trans hq)
      exact (count r hr).1 }

/-- The lane made of a lane's own fields is that lane. -/
theorem laneMade_laneRaw (l : Lane) : laneMade l.unit l.profile (laneRaw l) l.mode l.start l.stop = l := by
  have residue : (l.expectedResidue.map (·.toNat)).map (BitVec.ofNat 32) = l.expectedResidue := by
    cases l.expectedResidue <;> simp
  have count : countRangeOf (laneRaw l) = l.expectedCount := by
    cases hc : l.expectedCount <;> simp [countRangeOf, laneRaw, hc]
  unfold laneMade
  rw [count]
  exact congrArg (fun x => { l with expectedResidue := x }) residue

/-- A well-formed lane of another unit than those before it is read back (spec/04 R72). -/
theorem checkLane_laneRaw {width : Fin 16 → Option Nat} {before : List (Fin 8)} {w : Nat} {l : Lane}
    (h : l.wellFormed w = true) (hw : width l.profile = some w) (hb : l.unit ∉ before) :
    checkLane width before (laneRaw l) = .ok l := by
  rw [checkLane_of_passes rfl hb rfl hw (lanePasses_laneRaw h), laneMade_laneRaw]

/-! ### The lanes and the record read back (spec/04 R75) -/

/-- The bytes of well-formed lanes are read as those lanes. -/
theorem readLanes_laneBytes {ls : List Lane} (h : ∀ l ∈ ls, ∃ w, l.wellFormed w = true) :
    readLanes ls.length (ls.flatMap laneBytes) = some (ls.map laneRaw, []) := by
  induction ls with
  | nil => rfl
  | cons l ls ih =>
    obtain ⟨⟨w, hl⟩, hls⟩ := List.forall_mem_cons.mp h
    rw [List.flatMap_cons, List.length_cons, readLanes_succ, if_pos (laneLength_le_length l _), laneBytes_drop, ih hls,
      rawLaneOf_laneBytes hl]
    rfl

/-- Well-formed lanes of different units are read back (spec/04 R70, R72). -/
theorem checkLanes_laneRaw {width : Fin 16 → Option Nat} (pos : Nat) {before : List (Fin 8)} {ls : List Lane}
    (hunits : (before ++ ls.map (·.unit)).Nodup)
    (h : ∀ l ∈ ls, ∃ w, width l.profile = some w ∧ l.wellFormed w = true) :
    checkLanes width pos before (ls.map laneRaw) = .ok ls := by
  induction ls generalizing pos before with
  | nil => rfl
  | cons l ls ih =>
    obtain ⟨⟨w, hw, hl⟩, hls⟩ := List.forall_mem_cons.mp h
    rw [List.map_cons, ← List.singleton_append, ← List.append_assoc] at hunits
    have fresh : l.unit ∉ before := fun hmem =>
      (List.nodup_append.mp (List.nodup_append.mp hunits).1).2.2 _ hmem _ (List.mem_singleton_self _) rfl
    rw [List.map_cons, checkLanes, checkLane_laneRaw hl hw fresh]
    dsimp only
    rw [ih (pos + 1) hunits hls]

/-- A pattern number is read back (spec/10 10.5). -/
theorem patternVector_patternNumber (v : Vector PatternValue 4) : patternVector (patternNumber v) = some v := by
  have code (x : PatternValue) : patternOf (patternCode x) = some x := by cases x <;> rfl
  have digit (n : Fin 4) := patternNumber_digit v n
  have first : patternNumber v % 4 = patternCode v[0] := by simpa using digit 0
  have second : patternNumber v / 4 % 4 = patternCode v[1] := by simpa using digit 1
  have third : patternNumber v / 16 % 4 = patternCode v[2] := by simpa using digit 2
  have fourth : patternNumber v / 64 % 4 = patternCode v[3] := by simpa using digit 3
  rw [patternVector, first, second, third, fourth, code, code, code, code]
  refine congrArg some (Vector.ext fun i hi => ?_)
  match i, hi with
  | 0, _ | 1, _ | 2, _ | 3, _ => rfl

/-- The fields of a record as its bytes hold them (spec/10 10.5). -/
def stepRaw (r : StepRecord) : RawStep :=
  { number := r.number.val, laneCount := r.lanes.length, label := r.label.toNat, timeLimit := r.timeLimit,
    onFail := (onFailCode r.onFail).1, settle := r.settle, pattern := r.pattern.map patternNumber,
    retryLimit := (onFailCode r.onFail).2.1, exhaust := (onFailCode r.onFail).2.2, lanes := r.lanes.map laneRaw }

/-- The flag pattern of a record is read back. -/
theorem patternField_stepRaw (r : StepRecord) : patternField (stepRaw r) = some r.pattern := by
  unfold patternField
  cases hp : r.pattern <;> simp [stepRaw, hp, patternVector_patternNumber]

/-- The on-fail field of a well-formed record is read back (spec/04 R71). -/
theorem onFailOf_stepRaw {r : StepRecord} (h : r.onFail.wellFormed = true) : onFailOf (stepRaw r) = some r.onFail := by
  match hf : r.onFail with
  | .cont => simp [onFailOf, stepRaw, hf, onFailCode]
  | .halt => simp [onFailOf, stepRaw, hf, onFailCode]
  | .retry n .cont =>
    have limit : 1 ≤ n ∧ n ≤ 7 := by simpa [hf, OnFail.wellFormed] using h
    simp [onFailOf, stepRaw, hf, onFailCode, limit]
  | .retry n .halt =>
    have limit : 1 ≤ n ∧ n ≤ 7 := by simpa [hf, OnFail.wellFormed] using h
    simp [onFailOf, stepRaw, hf, onFailCode, limit]

/-- The record made of a record's own fields is that record. -/
theorem stepMade_stepRaw (r : StepRecord) :
    stepMade (stepRaw r) r.number.isLt r.pattern r.onFail r.lanes = r :=
  congrArg (fun x => { r with label := x }) (show BitVec.ofNat 16 r.label.toNat = r.label by simp)

/-- The bytes of a well-formed record are read as its fields. -/
theorem readStepPayload_stepBytes {width : Fin 16 → Option Nat} {r : StepRecord} (h : r.wellFormed width = true) :
    readStepPayload (stepBytes r) = some (stepRaw r) := by
  obtain ⟨-, -, -, -, -, -, lanes⟩ := StepRecord.wellFormed_iff.mp h
  have lanes : ∀ l ∈ r.lanes, ∃ w, l.wellFormed w = true := fun l hl => by
    obtain ⟨w, -, hw⟩ := lanes l hl
    exact ⟨w, hw⟩
  have raw : rawStepOf (stepBytes r) (fun k => (headerParts (stepBytes r)).field 8 k (stepBytes r))
      (r.lanes.map laneRaw) = stepRaw r := by
    simp only [rawStepOf, headerField_stepBytes h, stepBytes_number, stepBytes_count h, stepBytes_label,
      stepBytes_timeLimit h, stepBytes_onFail]
    simp [stepRaw, stepValues]
  rw [readStepPayload_eq, if_pos (headerLength_le_length r), stepBytes_count h, stepBytes_drop, readLanes_laneBytes lanes,
    ← raw]
  rfl

/-- Settles O59, by reading each part of a record back from its bytes. -/
theorem stepRecordRoundTrip : Obligations.StepRecordRoundTrip := by
  intro width r h
  obtain ⟨least, most, units, -, -, onFail, lanes⟩ := StepRecord.wellFormed_iff.mp h
  refine ⟨stepRaw r, readStepPayload_stepBytes h, ?_⟩
  rw [checkStep_of_header (raw := stepRaw r) r.number.isLt least most (patternField_stepRaw r) (onFailOf_stepRaw onFail)]
  have checked : checkLanes width 1 [] (stepRaw r).lanes = .ok r.lanes := checkLanes_laneRaw 1 units lanes
  rw [checked]
  exact congrArg Except.ok (stepMade_stepRaw r)

end Sys2Proof.Machine
end

section
/-! A step end does not look at the flag lines, and reaches each of them by itself (spec/05 R84 to R97, spec/07 7.2). -/

namespace Sys2Proof.Machine

set_option Elab.async false

/-- Two states agree but for the flag lines that `P` does not name. -/
def State.alikeOn (P : Fin 4 → Prop) (a b : State) : Prop :=
  b = { a with flags := b.flags } ∧ ∀ n, P n → b.flags[n] = a.flags[n]

section
variable {P : Fin 4 → Prop} {a b : State}

/-- Arms do not look at the lines. -/
theorem State.alikeOn.armAll (h : a.alikeOn P b) (ls : List Lane) : (a.armAll ls).alikeOn P (b.armAll ls) := by
  induction ls generalizing a b with
  | nil => exact h
  | cons l ls ih =>
    refine ih (a := a.armLane l) (b := b.armLane l) ?_
    obtain ⟨hb, lines⟩ := h
    unfold State.armLane
    rw [hb, show ({ a with flags := b.flags } : State).profileAt l.profile = a.profileAt l.profile from rfl]
    cases a.profileAt l.profile with
    | none => exact ⟨rfl, lines⟩
    | some p => exact ⟨rfl, lines⟩

/-- The end of the settle time does not look at the lines. -/
theorem State.alikeOn.capture (h : a.alikeOn P b) : a.capture.alikeOn P b.capture := by
  have copy : b.seq.stepCopy = a.seq.stepCopy := by rw [h.1]
  unfold State.capture
  rw [copy]
  cases a.seq.stepCopy with
  | none => exact h
  | some r =>
    obtain ⟨hb, lines⟩ := h.armAll r.lanes
    refine ⟨?_, lines⟩
    dsimp only
    rw [hb]

/-- A step starts line by line. -/
theorem State.alikeOn.startStep (h : a.alikeOn P b) : a.startStep.alikeOn P b.startStep := by
  obtain ⟨hb, lines⟩ := h
  have step : b.steps[b.seq.step] = a.steps[a.seq.step] := by rw [hb]
  have clock : b.runClock = a.runClock := by rw [hb]; rfl
  cases hr : a.steps[a.seq.step] with
  | none =>
    unfold State.startStep
    rw [step, hr]
    exact ⟨hb, lines⟩
  | some r =>
    rw [State.startStep_eq a r hr, State.startStep_eq b r (step.trans hr)]
    have patterned (n : Fin 4) (hn : P n) :
        (b.applyPattern r.pattern).flags[n] = (a.applyPattern r.pattern).flags[n] := by
      rw [State.applyPattern_line, State.applyPattern_line, lines n hn]
    have begun : State.alikeOn P
        { a with
          seq := { a.seq with stepCopy := some r, reports := Vector.replicate 8 none, stepStart := a.runClock }
          flags := (a.applyPattern r.pattern).flags }
        { b with
          seq := { b.seq with stepCopy := some r, reports := Vector.replicate 8 none, stepStart := b.runClock }
          flags := (b.applyPattern r.pattern).flags } := by
      refine ⟨?_, patterned⟩
      rw [clock]
      generalize (b.applyPattern r.pattern).flags = F
      rw [hb]
    dsimp only
    split
    · refine ⟨?_, patterned⟩
      have now : b.now = a.now := by rw [hb]
      rw [clock, now]
      generalize (b.applyPattern r.pattern).flags = F
      rw [hb]
    · exact begun.capture

/-- A choice is carried out line by line. -/
theorem State.alikeOn.carryOut (h : a.alikeOn P b) (c : Choice) : (a.carryOut c).alikeOn P (b.carryOut c) := by
  obtain ⟨hb, lines⟩ := h
  cases c with
  | runEnd kind =>
    refine ⟨by rw [hb]; rfl, fun n hn => ?_⟩
    simp only [State.carryOut, State.endRun, State.restPatterns, getElem_ofFn_fin]
    rw [lines n hn]
  | start m attempt iteration =>
    have pending : b.seq.pausePending = a.seq.pausePending := by rw [hb]
    cases hp : a.seq.pausePending with
    | true =>
      have paused (y : State) (hy : y.seq.pausePending = true) : y.carryOut (.start m attempt iteration) =
        { y with seq := { y.seq with
          step := m, attempt := attempt, iteration := iteration, plan := .paused, pausePending := false } } := if_pos hy
      rw [paused a hp, paused b (pending.trans hp)]
      exact ⟨by rw [hb], lines⟩
    | false =>
      have starts (y : State) (hy : y.seq.pausePending = false) : y.carryOut (.start m attempt iteration) =
          ({ y with seq := { y.seq with step := m, attempt := attempt, iteration := iteration } } : State).startStep :=
        if_neg (by rw [hy]; exact Bool.false_ne_true)
      rw [starts a hp, starts b (pending.trans hp)]
      refine State.alikeOn.startStep ⟨?_, lines⟩
      rw [hb]

/-- A boundary reaches each line by itself (spec/05 R93). -/
theorem State.alikeOn.boundary (h : a.alikeOn P b) (v : Verdict) : (a.boundary v).alikeOn P (b.boundary v) := by
  obtain ⟨hb, lines⟩ := h
  have frame (y : State) : y.release.boundaryPulses v = { y.release with flags := (y.release.boundaryPulses v).flags } := by
    unfold State.boundaryPulses State.trigger
    split <;> rfl
  have release : b.release = { a.release with flags := b.flags } := by rw [hb]; rfl
  have pulses : (a.release.boundaryPulses v).alikeOn P (b.release.boundaryPulses v) := by
    refine ⟨?_, fun n hn => ?_⟩
    · rw [frame a, frame b, release]
    · rw [State.boundaryPulses_line, State.boundaryPulses_line]
      have now : b.now = a.now := by rw [hb]
      show pulsed b.now v b.flags[n] = pulsed a.now v a.flags[n]
      rw [now, lines n hn]
  have choice : (b.release.boundaryPulses v).boundaryChoice v = (a.release.boundaryPulses v).boundaryChoice v := by
    rw [pulses.1]
    rfl
  unfold State.boundary
  dsimp only
  rw [choice]
  exact pulses.carryOut _

/-- A post reaches each line by itself (spec/05 R91). -/
theorem State.alikeOn.askToPost (h : a.alikeOn P b) (v : Verdict) : (a.askToPost v).alikeOn P (b.askToPost v) := by
  obtain ⟨hb, lines⟩ := h
  have room : b.queue.hasRoom (b.seq.recordsOf v b.queue.next).length =
      a.queue.hasRoom (a.seq.recordsOf v a.queue.next).length := by rw [hb]
  cases hroom : a.queue.hasRoom (a.seq.recordsOf v a.queue.next).length with
  | true =>
    rw [State.askToPost_of_hasRoom hroom, State.askToPost_of_hasRoom (room.trans hroom)]
    have posted : State.alikeOn P (a.posted v) (b.posted v) := by
      refine ⟨?_, lines⟩
      unfold State.posted
      rw [hb]
    exact posted.boundary v
  | false =>
    rw [State.askToPost_of_not_hasRoom hroom, State.askToPost_of_not_hasRoom (room.trans hroom)]
    exact ⟨by rw [hb], lines⟩

/-- A step end reaches each line by itself (spec/05 R87). -/
theorem State.alikeOn.endStep (h : a.alikeOn P b) : a.endStep.alikeOn P b.endStep := by
  have verdict : b.seq.verdict = a.seq.verdict := by rw [h.1]
  have stopped : State.alikeOn P { a with seq := { a.seq with stepTimerAt := none } }
      { b with seq := { b.seq with stepTimerAt := none } } := by
    refine ⟨?_, h.2⟩
    dsimp only
    rw [h.1]
  unfold State.endStep
  rw [verdict]
  exact stopped.askToPost _

end

end Sys2Proof.Machine
end

section
/-! The expiry of the step timer: closes that are happenings one after another, the last of which ends the step (spec/05
R85 to R87, R91; spec/03 R49). -/

namespace Sys2Proof.Machine

set_option Elab.async false

/-! ### SETTLE_END -/

/-- A timer has run out when its instant has come. -/
theorem runOut_some {now e : Nat} : runOut now (some e) = true ↔ e ≤ now := by
  simp [runOut]

/-- Before its instant the end of the settle time does nothing (spec/05 R85). -/
theorem execSettleEnd_of_early {s : State} {t e : Nat} (he : s.seq.settleEndAt = some e) (hearly : max s.now t < e) :
    exec (.settleEnd t) s = .next (s.advance t) := by
  refine if_neg fun h => ?_
  have run := h.2
  rw [show (s.advance t).seq.settleEndAt = some e from he, runOut_some] at run
  exact absurd (Nat.lt_of_lt_of_le hearly run) (Nat.lt_irrefl _)

/-- At its instant the units are armed (spec/05 R85). -/
theorem execSettleEnd_of_due {s : State} {t e : Nat} (hplan : s.seq.plan = .settling) (he : s.seq.settleEndAt = some e)
    (hdue : e ≤ max s.now t) : exec (.settleEnd t) s = .next ((s.advance t).capture.finish (s.advance t)) := by
  refine if_pos ⟨hplan, ?_⟩
  rw [show (s.advance t).seq.settleEndAt = some e from he, runOut_some]
  exact hdue

/-- The units of a step are armed, whatever else has become of the state. -/
theorem capturing.of_same {r : StepRecord} {s x s' : State} (h : capturing r s x) (hnow : s'.now = x.now)
    (hseq : s'.seq = x.seq) (hunits : s'.units = x.units) : capturing r s s' := by
  unfold capturing
  rw [hnow, hseq, hunits]
  exact h

/-- At its instant the end of the settle time arms the units of the step (spec/05 R85, spec/03 R36). -/
theorem settleEnd_captures {s : State} {t e : Nat} {r : StepRecord} (hplan : s.seq.plan = .settling)
    (he : s.seq.settleEndAt = some e) (hdue : e ≤ max s.now t) (hr : s.seq.stepCopy = some r)
    (hw : r.wellFormed s.widthAt = true) :
    ∃ s', exec (.settleEnd t) s = .next s' ∧ capturing r s s' ∧ unchangedBut [.units, .seq, .flags, .tx] s s' ∧
      linesNoted { s with now := s'.now } s' (fun n => s.flags[n]) ∧
      s'.seq = { s.seq with plan := .capturing, settleEndAt := none,
                            stepTimerAt := if r.timeLimit = 0 then none else some (s'.now + millis r.timeLimit) } := by
  have hs' := execSettleEnd_of_due (t := t) hplan he hdue
  have captured := State.capture_eq (s.advance t) r hr
  obtain ⟨now, reset, -, -, -, units, seq, -⟩ := State.finish_frame (s.advance t) (s.advance t).capture
  have instant : (s.advance t).capture.now = (s.advance t).now := by rw [captured]
  refine ⟨_, hs', (State.capture_capturing (s.advance t) r hr hw).of_same now seq units,
    unchangedBut_of_exec hs' (by simp [touched, ownBlocks, takingOf]) (reset.trans (by rw [captured]; rfl)), ?_, ?_⟩
  · exact (State.finish_linesNoted instant).congr fun n => by rw [captured]; rfl
  · rw [seq, now, captured]
    rfl

/-! ### One close of an expiry -/

/-- Why the step timer closes a unit (spec/03 R49). -/
def expiryReason (b : Bound) : Option CloseReason :=
  if b.phase = .armed then some .noStart else if b.phase = .opened then some .timeLimit else none

/-- The step timer closes a unit with its reason (spec/03 R49). -/
theorem State.expireUnit_of_reason {s : State} {u : Fin 8} {b : Bound} {reason : CloseReason} (hb : s.units[u] = some b)
    (h : expiryReason b = some reason) : s.expireUnit u = s.closeUnit reason u := by
  unfold State.expireUnit
  rw [hb]
  dsimp only
  unfold expiryReason at h
  cases hphase : b.phase with
  | armed =>
    rw [hphase] at h
    cases h
    rfl
  | opened =>
    rw [hphase] at h
    cases h
    rfl
  | closed =>
    rw [hphase] at h
    cases h

/-- A unit has a reason to close exactly when it is not CLOSED. -/
theorem expiryReason_ne_none {b : Bound} : expiryReason b ≠ none ↔ b.phase ≠ .closed := by
  unfold expiryReason
  cases b.phase <;> simp

section
variable {s : State} {r : StepRecord} {why : Fin 8 → Option CloseReason} {u : Fin 8} {b : Bound} {reason : CloseReason}

/-- After one close that is not the last the others are to come (spec/05 R87). -/
theorem ClosesLast.without (h : ClosesLast s r why) (hb : s.units[u] = some b)
    (hmore : ∃ v, Machine.without u why v ≠ none) :
    ClosesLast (s.withClosed (onlyUnit u reason)) r (Machine.without u why) := by
  refine ⟨h.copy, h.few, h.distinct, fun j l hj => ?_, fun v hv => h.named v fun e => hv ?_, hmore⟩
  · rw [State.withClosed_report_of_lane h.copy hj]
    by_cases hv : l.unit = u
    · subst hv
      rw [hb]
      simp [onlyUnit, Machine.without]
    · have := h.missing j l hj
      simpa [onlyUnit, Machine.without, hv] using this
  · simp [Machine.without, e]

/-- Before the last close some lane is without a report. -/
theorem ClosesLast.not_allReported (h : ClosesLast s r why) : s.seq.allReported = false := by
  obtain ⟨v, hv⟩ := h.closes
  obtain ⟨l, hl, rfl⟩ := h.named v hv
  obtain ⟨j, hj⟩ := List.mem_iff_getElem?.mp hl
  have hj8 : j < 8 := Nat.lt_of_lt_of_le (List.getElem?_eq_some_iff.mp hj).1 h.few
  exact Sequencer.allReported_of_missing (j := ⟨j, hj8⟩) h.copy hj ((h.missing ⟨j, hj8⟩ l hj).mpr hv)

/-- A close that is not the last reaches the unit and its report alone (spec/05 R87). -/
theorem State.closeUnit_of_more (h : ClosesLast s r why) (hwhy : why u ≠ none) (hb : s.units[u] = some b)
    (hmore : ∃ v, without u why v ≠ none) : s.closeUnit reason u = s.withClosed (onlyUnit u reason) := by
  obtain ⟨l, hl, hlu⟩ := h.named u hwhy
  rw [State.closeUnit_of_lane reason hb h.copy h.few h.distinct hl hlu]
  have more := (h.without (reason := reason) hb hmore).not_allReported
  exact if_neg (by rw [more]; exact Bool.false_ne_true)

end

/-! ### The happenings before the last close -/

/-- From `s` to `y` windows have closed, each in a happening of its own: the flag lines have noted what has changed of
their targets, and a busy TXD stands (spec/05 R87, spec/07 R126). -/
structure State.WindowsFall (s y : State) : Prop where
  now : y.now = s.now
  interp : y.interp = s.interp
  plan : y.seq.plan = s.seq.plan
  queue : y.queue = s.queue
  opens : ∀ u, y.isOpen u = true → s.isOpen u = true
  lines : linesNoted s y fun n => s.flags[n]
  busy : s.tx.inFlight ≠ none → y.tx = s.tx

/-- The WINDOW signal falls at most. -/
theorem windowSignal_falls {s y : State} (h : ∀ u, y.isOpen u = true → s.isOpen u = true)
    (hy : y.windowSignal = true) : s.windowSignal = true := by
  unfold State.windowSignal at hy ⊢
  obtain ⟨u, hu, hopen⟩ := List.any_eq_true.mp hy
  exact List.any_eq_true.mpr ⟨u, hu, h u hopen⟩

/-- The target of a line of source WINDOW. -/
theorem State.targetOf_window {f : FlagLine} (hf : f.source = .window) (s : State) :
    s.targetOf f = (s.windowSignal ^^ f.invert) := by
  unfold State.targetOf State.sourceValue
  rw [hf]

/-- The target of a line of another source than WINDOW does not depend on the units. -/
theorem State.targetOf_of_not_window {a b : State} {f : FlagLine} (hf : f.source ≠ .window) (hnow : b.now = a.now)
    (hplan : b.seq.plan = a.seq.plan) (hqueue : b.queue = a.queue) : b.targetOf f = a.targetOf f := by
  unfold State.targetOf State.sourceValue
  rw [hnow, hplan, hqueue]
  cases hs : f.source
  case window => exact absurd hs hf
  all_goals rfl

/-- What a line notes, with the target before given another way. -/
theorem linesNoted.line_eq {before s' : State} {f : Fin 4 → FlagLine} (h : linesNoted before s' f) {n : Fin 4}
    {g : FlagLine} {v : Bool} (hg : f n = g) (hv : before.targetOf before.flags[n] = v) :
    s'.flags[n] = if v = s'.targetOf g then g else g.note (s'.targetOf g) := by
  subst hg hv
  exact h n

/-- While windows fall, a line of another source than WINDOW stands. -/
theorem State.WindowsFall.line {s y : State} (h : s.WindowsFall y) {n : Fin 4} (hn : (s.flags[n]).source ≠ .window) :
    y.flags[n] = s.flags[n] :=
  h.lines.line_of_shown n (.inr (State.targetOf_of_not_window hn h.now h.plan h.queue).symm)

/-- While windows fall, a line notes one change at most, which a later happening does not take back: with the happening
after them the lines have noted what has changed since the first (spec/07 R126). -/
theorem State.WindowsFall.linesNoted {s y z : State} (h : s.WindowsFall y)
    (hz : ∀ u, z.isOpen u = true → y.isOpen u = true) (hlines : linesNoted y z fun n => y.flags[n]) :
    Machine.linesNoted s z fun n => s.flags[n] := by
  intro n
  have first := h.lines.line_eq (n := n) rfl rfl
  by_cases same : s.targetOf s.flags[n] = y.targetOf s.flags[n]
  · rw [if_pos same] at first
    exact hlines.line_eq first (by rw [first, same])
  · rw [if_neg same] at first
    have window : (s.flags[n]).source = .window := by
      by_contra hn
      exact same (State.targetOf_of_not_window hn h.now h.plan h.queue).symm
    have falls : s.windowSignal = true ∧ y.windowSignal = false := by
      rw [State.targetOf_window window, State.targetOf_window window] at same
      have implied := windowSignal_falls h.opens
      cases hs : s.windowSignal <;> cases hy : y.windowSignal <;> simp_all
    have low : z.windowSignal = false :=
      eq_false_of_ne_true fun high => Bool.false_ne_true (falls.2.symm.trans (windowSignal_falls hz high))
    have stays : z.targetOf s.flags[n] = y.targetOf s.flags[n] := by
      rw [State.targetOf_window window, State.targetOf_window window, low, falls.2]
    have target : y.targetOf y.flags[n] = y.targetOf s.flags[n] := by
      rw [first, State.targetOf_note]
    have stands := (hlines.line_eq first target).trans (if_pos (by rw [State.targetOf_note, stays]))
    exact stands.trans ((if_neg (by rw [stays]; exact same)).trans (by rw [stays])).symm

/-- Windows that have not fallen yet. -/
theorem State.WindowsFall.refl (s : State) : s.WindowsFall s :=
  ⟨rfl, rfl, rfl, rfl, fun _ h => h, fun _ => (if_pos rfl).symm, fun _ => rfl⟩

/-- Windows fall one after another. -/
theorem State.WindowsFall.trans {s y z : State} (h : s.WindowsFall y) (h' : y.WindowsFall z) : s.WindowsFall z where
  now := h'.now.trans h.now
  interp := h'.interp.trans h.interp
  plan := h'.plan.trans h.plan
  queue := h'.queue.trans h.queue
  opens u hu := h.opens u (h'.opens u hu)
  lines := h.linesNoted h'.opens h'.lines
  busy hbusy := (h'.busy (by rw [h.busy hbusy]; exact hbusy)).trans (h.busy hbusy)

/-- Closes open no window. -/
theorem State.isOpen_withClosed {s : State} {why : Fin 8 → Option CloseReason} {u : Fin 8}
    (h : (s.withClosed why).isOpen u = true) : s.isOpen u = true := by
  unfold State.isOpen at h ⊢
  rw [State.withClosed_unit] at h
  cases hb : s.units[u] with
  | none => rw [hb] at h; exact h
  | some b =>
    rw [hb] at h
    cases hwhy : why u with
    | none => rw [hwhy] at h; exact h
    | some reason => rw [hwhy] at h; exact absurd h (by simp [closedAs])

/-- A happening that only closes windows: they fall, and the lines and TXD alone change with them. -/
theorem State.finish_withClosed (s : State) (why : Fin 8 → Option CloseReason) :
    s.WindowsFall ((s.withClosed why).finish s) ∧
      (s.withClosed why).finish s = { s.withClosed why with flags := ((s.withClosed why).finish s).flags
                                                            tx := ((s.withClosed why).finish s).tx } := by
  have noticed : (s.withClosed why).noticePlan s = s.withClosed why := State.noticePlan_of_same _ s rfl
  have ends : (s.withClosed why).finish s = ((s.withClosed why).noteTargets s).arbitrate := by
    rw [State.finish, noticed]
  obtain ⟨now, -, -, -, -, units, seq, queue, -, interp, -⟩ := State.finish_frame s (s.withClosed why)
  refine ⟨⟨now, interp, by rw [seq]; rfl, queue, fun u hu => ?_, State.finish_lines _ s, fun hbusy => ?_⟩, ?_⟩
  · refine State.isOpen_withClosed (why := why) ?_
    unfold State.isOpen at hu ⊢
    rw [units] at hu
    exact hu
  · rw [ends, State.arbitrate_of_busy ((s.withClosed why).noteTargets s) hbusy]
    rfl
  · rw [ends, State.arbitrate_eq]
    rfl

/-! ### All closes of an expiry -/

/-- Closes do not look at the flag lines and TXD. -/
theorem State.withClosed_withLines (s : State) (flags : Vector FlagLine 4) (tx : Transmitter)
    (why : Fin 8 → Option CloseReason) :
    ({ s with flags := flags, tx := tx } : State).withClosed why =
      { s.withClosed why with flags := flags, tx := tx } := rfl

/-- The closes of an expiry: windows fall from `s` to `y`, and the last close ends the step (spec/05 R87). -/
theorem State.expiry_of_last {s : State} {r : StepRecord} {why : Fin 8 → Option CloseReason} {us : List (Fin 8)}
    (hnd : us.Nodup) (hus : ∀ u, why u ≠ none ↔ u ∈ us)
    (hwhy : ∀ u reason, why u = some reason → ∃ b, s.units[u] = some b ∧ expiryReason b = some reason)
    (h : ClosesLast s r why) :
    ∃ y x : State, s.WindowsFall y ∧ x = { s.withClosed why with flags := y.flags, tx := y.tx } ∧
      (∀ u, x.isOpen u = true → y.isOpen u = true) ∧ us.foldl (fun x u => x.expiryAt u) s = x.endStep.finish y := by
  induction us generalizing s why with
  | nil =>
    obtain ⟨u, hu⟩ := h.closes
    exact absurd ((hus u).mp hu) List.not_mem_nil
  | cons u us ih =>
    obtain ⟨fresh, hnd⟩ := List.nodup_cons.mp hnd
    have closesU : why u ≠ none := (hus u).mpr (List.mem_cons_self ..)
    obtain ⟨reason, hreason⟩ := Option.ne_none_iff_exists'.mp closesU
    obtain ⟨b, hb, hexpiry⟩ := hwhy u reason hreason
    have remaining (v : Fin 8) : without u why v ≠ none ↔ v ∈ us := by
      by_cases hv : v = u
      · subst hv
        simp [without, fresh]
      · simp [without, hv, hus v]
    have first : s.expiryAt u = (s.closeUnit reason u).finish s := by
      rw [State.expiryAt, State.expireUnit_of_reason hb hexpiry]
    rw [List.foldl_cons, first]
    cases us with
    | nil =>
      have only : why = onlyUnit u reason := by
        funext v
        by_cases hv : v = u
        · subst hv
          simp [onlyUnit, hreason]
        · have := (hus v).not
          simp only [List.mem_singleton, hv, not_false_iff, iff_true, not_not] at this
          simp [onlyUnit, hv, this]
      subst only
      exact ⟨s, s.withClosed (onlyUnit u reason), .refl s, rfl, fun v hv => State.isOpen_withClosed hv, by
        rw [State.closeUnit_of_last hb h]; rfl⟩
    | cons v vs =>
      have more : ∃ w, without u why w ≠ none := ⟨v, (remaining v).mpr (List.mem_cons_self ..)⟩
      obtain ⟨falls, shape⟩ := State.finish_withClosed s (onlyUnit u reason)
      rw [State.closeUnit_of_more h closesU hb more]
      generalize (s.withClosed (onlyUnit u reason)).finish s = z at falls shape
      have last : ClosesLast z r (without u why) := (h.without (reason := reason) hb more).of_seq (by rw [shape])
      have reasons (w : Fin 8) (x : CloseReason) (hw : without u why w = some x) :
          ∃ b, z.units[w] = some b ∧ expiryReason b = some x := by
        have other : w ≠ u := fun e => by simp [without, e] at hw
        obtain ⟨c, hc, hx⟩ := hwhy w x (by simpa [without, other] using hw)
        refine ⟨c, ?_, hx⟩
        rw [shape]
        refine (State.withClosed_unit s _ w).trans ?_
        rw [hc]
        simp [onlyUnit, other]
      obtain ⟨y, x, hy, hx, opens, ends⟩ := ih hnd remaining reasons last
      refine ⟨y, x, falls.trans hy, ?_, opens, ends⟩
      rw [hx, shape, State.withClosed_withLines, State.withClosed_split s why u reason hreason]

/-! ### The step end of an expiry -/

/-- A lane that closed with another reason than STOP makes the step verdict FAULT (spec/05 R88, R89). -/
theorem Sequencer.verdict_of_fault {q : Sequencer} {r : StepRecord} {j : Fin 8} {l : Lane} {c : CloseReport}
    (hr : q.stepCopy = some r) (h8 : r.lanes.length ≤ 8)
    (hall : ∀ j : Fin 8, j.val < r.lanes.length → q.reports[j] ≠ none) (hl : r.lanes[j.val]? = some l)
    (hc : q.reports[j] = some c) (hstop : c.reason ≠ .stop) : q.verdict = .fault := by
  have judged := (q.judged_eq r hr h8 hall).2 j.val l j c rfl hl hc
  have mem : Verdict.fault ∈ q.judged.map fun x => laneVerdict x.1 x.2.2 :=
    List.mem_map.mpr ⟨(l, j.val + 1, c), List.mem_of_getElem? judged, laneVerdict_of_not_stop hstop⟩
  exact if_pos mem

/-- What an expiry says of a state in which its closes have come about: every lane has its report, and one of them a
reason other than STOP. -/
structure State.Expired (z : State) (r : StepRecord) : Prop where
  copy : z.seq.stepCopy = some r
  few : r.lanes.length ≤ 8
  some_lane : 1 ≤ r.lanes.length
  reported : ∀ j : Fin 8, j.val < r.lanes.length → z.seq.reports[j] ≠ none
  fault : ∃ (j : Fin 8) (l : Lane) (c : CloseReport),
    r.lanes[j.val]? = some l ∧ z.seq.reports[j] = some c ∧ c.reason ≠ .stop

/-- Without room for its records an expired step is HELD with verdict FAULT (spec/05 R88, R91). -/
theorem State.Expired.endStep_of_full {z : State} {r : StepRecord} (h : z.Expired r)
    (hfull : 64 < z.queue.records.length + r.lanes.length) :
    z.endStep = { z with seq := { z.seq with plan := .held, stepTimerAt := none, heldVerdict := some .fault } } := by
  obtain ⟨j, l, c, hl, hc, hstop⟩ := h.fault
  have verdict := Sequencer.verdict_of_fault h.copy h.few h.reported hl hc hstop
  unfold State.endStep
  rw [verdict]
  exact State.askToPost_of_full (s := { z with seq := { z.seq with stepTimerAt := none } }) .fault h.copy h.some_lane
    h.few h.reported hfull

/-- The reason of an expiry is not STOP (spec/03 R49). -/
theorem expiryReason_ne_stop {b : Bound} {reason : CloseReason} (h : expiryReason b = some reason) :
    reason ≠ .stop := by
  unfold expiryReason at h
  cases hphase : b.phase <;> rw [hphase] at h <;> cases h <;> decide

/-- After the closes of an expiry every lane has its report, and one of them a reason other than STOP. -/
theorem ClosesLast.expired {s : State} {r : StepRecord} {why : Fin 8 → Option CloseReason} (h : ClosesLast s r why)
    (hwhy : ∀ u reason, why u = some reason → ∃ b, s.units[u] = some b ∧ expiryReason b = some reason) :
    (s.withClosed why).Expired r := by
  have report (j : Fin 8) (l : Lane) (hl : r.lanes[j.val]? = some l) {reason : CloseReason}
      (hreason : why l.unit = some reason) :
      ∃ c, (s.withClosed why).seq.reports[j] = some c ∧ c.reason = reason := by
    obtain ⟨b, hb, -⟩ := hwhy l.unit reason hreason
    rw [State.withClosed_report_of_lane h.copy hl, hreason, hb]
    exact ⟨_, rfl, rfl⟩
  obtain ⟨v, hv⟩ := h.closes
  obtain ⟨reason, hreason⟩ := Option.ne_none_iff_exists'.mp hv
  obtain ⟨l, hl, rfl⟩ := h.named v hv
  obtain ⟨k, hk⟩ := List.mem_iff_getElem?.mp hl
  have inside := (List.getElem?_eq_some_iff.mp hk).1
  have few := h.few
  refine ⟨h.copy, few, by omega, fun j hj => ?_, ?_⟩
  · have lane : r.lanes[j.val]? = some r.lanes[j.val] := List.getElem?_eq_getElem hj
    cases hr : why (r.lanes[j.val]).unit with
    | some x =>
      obtain ⟨c, hc, -⟩ := report j _ lane hr
      rw [hc]
      exact Option.some_ne_none c
    | none =>
      rw [State.withClosed_report_of_lane h.copy lane, hr]
      exact fun missing => (h.missing j _ lane).mp missing hr
  · obtain ⟨c, hc, hreasonc⟩ := report ⟨k, by omega⟩ l hk hreason
    obtain ⟨b, -, hexpiry⟩ := hwhy l.unit reason hreason
    exact ⟨⟨k, by omega⟩, l, c, hk, hc, hreasonc ▸ expiryReason_ne_stop hexpiry⟩

/-- A step end reaches each line by itself, and TXD apart from the rest (spec/05 R87). -/
theorem State.endStep_withLines (P : Fin 4 → Prop) (c : State) (flags : Vector FlagLine 4) (tx : Transmitter)
    (hlines : ∀ n, P n → flags[n] = c.flags[n]) :
    ∃ F X, ({ c with flags := flags, tx := tx } : State).endStep = { c.endStep with flags := F, tx := X } ∧
      (∀ n, P n → F[n] = c.endStep.flags[n]) ∧ (tx = c.tx → X = c.endStep.tx) := by
  have alike : State.alikeOn P { c with tx := tx } { c with flags := flags, tx := tx } := ⟨rfl, hlines⟩
  obtain ⟨shape, lines⟩ := alike.endStep
  obtain ⟨X, link⟩ := State.withLink_askToPost c.interp tx c.seq.verdict
    { c with seq := { c.seq with stepTimerAt := none } }
  have apart : ({ c with tx := tx } : State).endStep = c.endStep.withLink c.interp X := link
  rw [apart] at shape lines
  obtain ⟨interp, -⟩ := c.endStep_onlyResults
  refine ⟨_, X, shape.trans ?_, lines, fun same => ?_⟩
  · unfold State.withLink
    rw [← interp]
  · subst same
    exact (congrArg State.tx apart).symm

/-! ### STEP_TIMER_EXPIRY -/

/-- Before its instant the expiry of the step timer does nothing (spec/05 R86). -/
theorem execStepTimerExpiry_of_early {s : State} {t e : Nat} (he : s.seq.stepTimerAt = some e)
    (hearly : max s.now t < e) : exec (.stepTimerExpiry t) s = .next (s.advance t) := by
  refine if_neg fun h => ?_
  have run := h.2
  rw [show (s.advance t).seq.stepTimerAt = some e from he, runOut_some] at run
  exact absurd (Nat.lt_of_lt_of_le hearly run) (Nat.lt_irrefl _)

/-- The state from which the closes of an expiry start. -/
def State.expiring (t : Nat) (s : State) : State :=
  { s.advance t with seq := { s.seq with stepTimerAt := none } }

/-- At its instant the units that run close one after another (spec/05 R86, R87). -/
theorem execStepTimerExpiry_of_due {s : State} {t e : Nat} (hplan : s.seq.plan = .capturing)
    (he : s.seq.stepTimerAt = some e) (hdue : e ≤ max s.now t) :
    exec (.stepTimerExpiry t) s =
      .next (s.runningUnits.foldl (fun x u => x.expiryAt u) (s.expiring t)) := by
  refine if_pos ⟨hplan, ?_⟩
  rw [show (s.advance t).seq.stepTimerAt = some e from he, runOut_some]
  exact hdue

/-- The units that run are those that the step names and that have a reason to close. -/
theorem State.mem_runningUnits {s : State} {r : StepRecord} (hr : s.seq.stepCopy = some r) {u : Fin 8} :
    u ∈ s.runningUnits ↔ (∃ l ∈ r.lanes, l.unit = u) ∧ (s.units[u]).bind expiryReason ≠ none := by
  unfold State.runningUnits
  rw [hr]
  simp only [List.mem_filter, List.mem_map]
  refine and_congr_right fun _ => ?_
  cases s.units[u] with
  | none => simp
  | some b => simp [expiryReason_ne_none]

/-- The units that run are different ones. -/
theorem State.runningUnits_nodup {s : State} {r : StepRecord} (hr : s.seq.stepCopy = some r)
    (h : (r.lanes.map (·.unit)).Nodup) : s.runningUnits.Nodup := by
  unfold State.runningUnits
  rw [hr]
  exact h.filter _

/-- An expiry at its instant: the closes come about, and the last one ends the step (spec/05 R86, R87). -/
theorem stepTimerExpiry_of_last {s x : State} {t e : Nat} {r : StepRecord} (hplan : s.seq.plan = .capturing)
    (he : s.seq.stepTimerAt = some e) (hdue : e ≤ max s.now t)
    (h : ClosesLast s r fun u => (s.units[u]).bind expiryReason)
    (hx : x = (s.advance t).withClosed fun u => (s.units[u]).bind expiryReason) :
    ∃ (y : State) (last : State), (s.expiring t).WindowsFall y ∧
      last = { x with seq := { x.seq with stepTimerAt := none }, flags := y.flags, tx := y.tx } ∧
      (∀ u, last.isOpen u = true → y.isOpen u = true) ∧
      exec (.stepTimerExpiry t) s = .next (last.endStep.finish y) ∧ x.Expired r ∧ last.Expired r := by
  have reasons (u : Fin 8) (reason : CloseReason) (hu : (s.units[u]).bind expiryReason = some reason) :
      ∃ b, s.units[u] = some b ∧ expiryReason b = some reason := Option.bind_eq_some_iff.mp hu
  have closes : ClosesLast (s.expiring t) r fun u => (s.units[u]).bind expiryReason :=
    ⟨h.copy, h.few, h.distinct, h.missing, h.named, h.closes⟩
  obtain ⟨y, last, falls, shape, opens, ends⟩ := State.expiry_of_last (s := s.expiring t)
    (State.runningUnits_nodup h.copy h.distinct)
    (fun u => ⟨fun hu => (State.mem_runningUnits h.copy).mpr ⟨h.named u hu, hu⟩,
      fun hu => ((State.mem_runningUnits h.copy).mp hu).2⟩) reasons closes
  have expired : x.Expired r := hx ▸ ClosesLast.expired (s := s.advance t)
    ⟨h.copy, h.few, h.distinct, h.missing, h.named, h.closes⟩ reasons
  have shape : last = { x with seq := { x.seq with stepTimerAt := none }, flags := y.flags, tx := y.tx } := by
    rw [shape, hx]
    rfl
  refine ⟨y, last, falls, shape, opens, (execStepTimerExpiry_of_due hplan he hdue).trans (congrArg _ ends),
    expired, ?_⟩
  rw [shape]
  exact ⟨expired.copy, expired.few, expired.some_lane, expired.reported, expired.fault⟩

/-- An instant that has come changes nothing. -/
theorem State.advance_self (s : State) : s.advance s.now = s := by
  simp [State.advance]

/-- An expiry at its instant ends the step as the statement says (spec/05 R86, R87, R91). -/
theorem stepTimerExpiry_ends {s x : State} {t e : Nat} {r : StepRecord} (hplan : s.seq.plan = .capturing)
    (he : s.seq.stepTimerAt = some e) (hdue : e ≤ max s.now t)
    (h : ClosesLast s r fun u => (s.units[u]).bind expiryReason)
    (hx : x = (s.advance t).withClosed fun u => (s.units[u]).bind expiryReason) :
    ∃ s', exec (.stepTimerExpiry t) s = .next s' ∧ stepEnded x s' ∧
      unchangedBut [.units, .seq, .queue, .flags, .tx] s s' ∧
      (∀ n : Fin 4, (s.flags[n]).source ≠ .window → s'.flags[n] =
        if ({ s with now := s'.now } : State).targetOf s.flags[n] = s'.targetOf x.endStep.flags[n]
        then x.endStep.flags[n] else (x.endStep.flags[n]).note (s'.targetOf x.endStep.flags[n])) ∧
      (s.tx.inFlight ≠ none → endNoticed x s s') ∧
      (64 < s.queue.records.length + r.lanes.length →
        s'.seq = { x.seq with plan := .held, stepTimerAt := none, heldVerdict := some .fault } ∧
          s'.units = x.units ∧ s'.queue = s.queue ∧
          linesNoted { s with now := s'.now } s' (fun n => s.flags[n])) := by
  obtain ⟨y, last, falls, shape, opens, hs', expired, lastExpired⟩ := stepTimerExpiry_of_last hplan he hdue h hx
  have instant : (last.endStep.finish y).now = max s.now t := exec_now hs'
  obtain ⟨F, X, ended, lines, link⟩ := State.endStep_withLines (fun n => (s.flags[n]).source ≠ .window)
    { x with seq := { x.seq with stepTimerAt := none } } y.flags y.tx (fun n hn => (falls.line hn).trans (by rw [hx]; rfl))
  have stopped : ({ x with seq := { x.seq with stepTimerAt := none } } : State).endStep = x.endStep := rfl
  rw [← shape, stopped] at ended
  rw [stopped] at lines link
  obtain ⟨stepEnds, noted, notices⟩ := State.finish_stepEnded (s := y) (t := y.now) (x := last)
    (by rw [shape, hx, max_self, falls.now]; rfl) (by rw [shape, hx, falls.interp]; rfl) (by rw [shape])
  rw [State.advance_self] at stepEnds noted notices
  obtain ⟨seq, units, queue⟩ : stepEnded x (last.endStep.finish y) := by
    obtain ⟨seq, units, queue⟩ := stepEnds
    exact ⟨seq.trans (by rw [ended]), units.trans (by rw [ended]), queue.trans (by rw [ended])⟩
  refine ⟨_, hs', ⟨seq, units, queue⟩, unchangedBut_of_exec hs' (by simp [touched, ownBlocks, takingOf]) ?reset, fun n hn => ?line,
    fun hbusy => ?notices, fun hfull => ?held⟩
  case reset =>
    simp only [State.finish_frame, State.endStep_frame]
    rw [shape, hx]
    rfl
  case line =>
    have target : ({ y with now := (last.endStep.finish y).now } : State).targetOf y.flags[n] =
        ({ s with now := (last.endStep.finish y).now } : State).targetOf s.flags[n] := by
      rw [falls.line hn]
      exact State.targetOf_of_not_window hn rfl falls.plan falls.queue
    exact noted.line_eq (by rw [ended]; exact lines n hn) target
  case notices =>
    have tx : y.tx = s.tx := falls.busy hbusy
    have interp : y.interp = s.interp := falls.interp
    obtain ⟨results, start, linkNotice, plan⟩ := notices (by rw [tx]; exact hbusy)
    refine ⟨results.trans ?_, start.trans (by rw [tx]), linkNotice.trans (by rw [tx]), ?_⟩
    · rw [ended]
      exact congrArg Transmitter.results (link (tx.trans (by rw [hx]; rfl)))
    · have before : y.seq.plan.condition = s.seq.plan.condition := congrArg PlanState.condition falls.plan
      by_cases same : (last.endStep.finish y).seq.plan.condition = s.seq.plan.condition
      · rw [if_pos (same.trans before.symm)] at plan
        rw [if_pos same, plan, tx]
      · rw [if_neg fun e => same (e.trans before)] at plan
        rw [if_neg same]
        unfold planNoticed at plan ⊢
        rw [interp, tx] at plan
        exact plan
  case held =>
    have full : 64 < x.queue.records.length + r.lanes.length := by
      rw [hx]
      exact hfull
    have heldX := expired.endStep_of_full full
    have heldLast := lastExpired.endStep_of_full (by rw [shape]; exact full)
    refine ⟨seq.trans (by rw [heldX]), units.trans (by rw [heldX]), queue.trans (by rw [heldX, hx]; rfl), ?_⟩
    have unitsLast : (last.endStep.finish y).units = last.units := by
      rw [units, heldX, shape]
    have windows (u : Fin 8) (hu : (last.endStep.finish y).isOpen u = true) : y.isOpen u = true := by
      refine opens u ?_
      unfold State.isOpen at hu ⊢
      rw [unitsLast] at hu
      exact hu
    have held := falls.linesNoted windows ((State.finish_lines last.endStep y).congr fun n => by rw [heldLast, shape])
    rw [instant]
    exact held

/-- Settles O27: each timer before its instant and at it, the closes of an expiry one by one. -/
theorem timersCarryStepOn : Obligations.TimersCarryStepOn :=
  ⟨fun _ _ _ hplan he => ⟨execSettleEnd_of_early he, fun hdue _ hr hw => settleEnd_captures hplan he hdue hr hw⟩,
    fun _ _ _ hplan he => ⟨execStepTimerExpiry_of_early he, fun hdue _ _ _ hwhy hlast hx => by
      subst hwhy
      exact stepTimerExpiry_ends hplan he hdue hlast hx⟩⟩

end Sys2Proof.Machine
end
